-- ==== Sys2Proof/Word.lean ====
section
/-! DEFINITION. The word types of the block (00_scope.md R10): a byte and a 16-bit word. Every other quantity of the
block (lengths, counts, instants) is a natural number. -/

namespace Sys2Proof

/-- An unsigned 8-bit value, bit 7 the most significant (R10). -/
abbrev Byte := BitVec 8

/-- An unsigned 16-bit value, bits 15 down to 0 (R10). -/
abbrev Word16 := BitVec 16

end Sys2Proof
end

