-- ==== Sys2Proof/Config.lean ====
section
/-! DEFINITION. The protocol constants of 00_scope.md R7 and R8, and the open parameters of R9: opaque constants, so that a
statement about them holds for every legal choice. The six hold durations have a default in the spec and stand in State. -/

namespace Sys2Proof

/-- START_BYTE, the first byte of every frame (R7, R61). -/
def Config.startByte : Byte := 0xA5

/-- TRAILER_BYTES, the marker closing the body (R7, R65). -/
def Config.trailer : List Byte := [0xCC, 0x33, 0xC3, 0x3C]

/-- FIXED_OVERHEAD, added to the length of the body (R7, R62). -/
def Config.fixedOverhead : Nat := 8

/-- MAX_FRAME, the link's maximum command size in bytes (R7). -/
def Config.maxFrame : Nat := 512

/-- MAX_PAYLOAD = MAX_FRAME - 9 (R9, R92; 90_conflicts.md C1). -/
def Config.maxPayload : Nat := Config.maxFrame - 9

/-- CMD_CLEAR, the one command value the source states (R7, R71). -/
def Config.cmdClear : Byte := 0x2E

/-- The greatest command value of the observed range 0x00..0x70 (R7, R71). -/
def Config.maxCommand : Nat := 0x70

/-- The minima of the six holds, in microseconds (R8). -/
def Config.rstLow1Min : Nat := 1000
def Config.rstHighMin : Nat := 1000
def Config.rstLow2Min : Nat := 2000000
def Config.wakeLow1Min : Nat := 1000
def Config.wakeHighMin : Nat := 1000
def Config.wakeLow2Min : Nat := 10000

/-! ## Open parameters (no body: any legal value) -/

/-- Free value: which further values of the observed range are commands (R9, R71, D2). Log 8. -/
opaque Config.cmdOpen : Byte → Bool

/-- Free values: the command values CMD_<OP> the source does not give, each within the observed range (R152, D26). Log 9. -/
opaque Config.updateCode : Fin 0x71
opaque Config.setColorCode : Fin 0x71
opaque Config.drawPixelCode : Fin 0x71
opaque Config.drawLineCode : Fin 0x71
opaque Config.fillRectCode : Fin 0x71
opaque Config.drawCircleCode : Fin 0x71
opaque Config.fillCircleCode : Fin 0x71
opaque Config.drawTriangleCode : Fin 0x71
opaque Config.fillTriangleCode : Fin 0x71
opaque Config.textCode : Fin 0x71
opaque Config.drawBitmapCode : Fin 0x71
opaque Config.setMemoryModeCode : Fin 0x71
opaque Config.setRotationCode : Fin 0x71
opaque Config.setFontCode : Fin 0x71
opaque Config.sleepCode : Fin 0x71

/-- Free values: the payload builders P_<op> whose layout the source does not give (R151, R155, R156, R166 to R169, D26). Log 10. -/
opaque Config.updatePayload : List Byte
opaque Config.sleepPayload : List Byte
opaque Config.setColorPayload : List Nat → List Byte
opaque Config.setMemoryModePayload : List Nat → List Byte
opaque Config.setRotationPayload : List Nat → List Byte
opaque Config.setFontPayload : List Nat → List Byte

/-- Free value: the transport's answer to a call for which no answer is scripted: `none` is Error, `some k` is Written(k)
(R112, U8). Log 3. -/
opaque Config.txDraw : Nat → Option Nat

/-- Free value: the time a collaborator call takes beyond what is asked of it, where none is scripted (R33, U12). Log 4. -/
opaque Config.extraTime : Nat → Nat

/-- Free value: the cycles that the other side of a port of R36 keeps the block waiting at a transfer for which nothing is
scripted. A natural number, so every wait ends (R217: each call returns). Log 23. -/
opaque Config.portWait : Nat → Nat

/-- Free value: one less than F_CLK_HZ (R9, D19). Log 6. -/
opaque Config.fClkPred : Nat

/-- F_CLK_HZ, the clock frequency of the tick-count realisation, any positive natural (R9, R133, D19). Log 6. -/
def Config.fClkHz : Nat := Config.fClkPred + 1

/-- A command code of the observed range as the byte it is. -/
def Config.commandByte (c : Fin 0x71) : Byte := BitVec.ofNat 8 c.val

def Config.cmdUpdate : Byte := Config.commandByte Config.updateCode
def Config.cmdSetColor : Byte := Config.commandByte Config.setColorCode
def Config.cmdDrawPixel : Byte := Config.commandByte Config.drawPixelCode
def Config.cmdDrawLine : Byte := Config.commandByte Config.drawLineCode
def Config.cmdFillRect : Byte := Config.commandByte Config.fillRectCode
def Config.cmdDrawCircle : Byte := Config.commandByte Config.drawCircleCode
def Config.cmdFillCircle : Byte := Config.commandByte Config.fillCircleCode
def Config.cmdDrawTriangle : Byte := Config.commandByte Config.drawTriangleCode
def Config.cmdFillTriangle : Byte := Config.commandByte Config.fillTriangleCode
def Config.cmdText : Byte := Config.commandByte Config.textCode
def Config.cmdDrawBitmap : Byte := Config.commandByte Config.drawBitmapCode
def Config.cmdSetMemoryMode : Byte := Config.commandByte Config.setMemoryModeCode
def Config.cmdSetRotation : Byte := Config.commandByte Config.setRotationCode
def Config.cmdSetFont : Byte := Config.commandByte Config.setFontCode
def Config.cmdSleep : Byte := Config.commandByte Config.sleepCode

/-- The open command values of the typed operations (R152). -/
def Config.typedCommands : List Byte :=
  [cmdUpdate, cmdSetColor, cmdDrawPixel, cmdDrawLine, cmdFillRect, cmdDrawCircle, cmdFillCircle, cmdDrawTriangle,
   cmdFillTriangle, cmdText, cmdDrawBitmap, cmdSetMemoryMode, cmdSetRotation, cmdSetFont, cmdSleep]

/-- Membership in CMD_SET (R71): 0x2E is a member, every member lies in 0x00..0x70, every CMD_<OP> is a member (R152), and
nothing else is fixed. Every CMD_SET that meets these constraints is some choice of the free values. -/
def Config.inCmdSet (c : Byte) : Bool :=
  c == cmdClear || (decide (c.toNat ≤ maxCommand) && (typedCommands.contains c || cmdOpen c))

end Sys2Proof
end

