-- ==== Sys2Proof/Syntax.lean ====
section
/-! DEFINITION. The instructions (one constructor per row of spec/opcode_table.json), the words in which a caller presents
them, and the reasons for which words are no instruction. -/

namespace Sys2Proof

/-- The instructions, in the table's order. The first four are the block's operations (00_scope.md R5); `frame` is the wire
format of R60 as an instruction (log 11); the others are the typed operations (R154 to R169), pseudo-instructions that each
expand to one SEND (R150). A numeric argument and a character are naturals: a value outside its range is a call the typed
layer refuses (R69, R70), not a call that cannot be written down. -/
inductive Instr where
  /-- R90. An absent payload is `none` (R101). -/
  | encode (cmd : Byte) (payload : Option (List Byte))
  /-- R110. -/
  | send (cmd : Byte) (payload : Option (List Byte))
  /-- R125. -/
  | reset
  /-- R126. -/
  | wake
  /-- R60. -/
  | frame (cmd : Byte) (payload : List Byte)
  /-- R154. -/
  | clear
  /-- R155. -/
  | update
  /-- R156. The source states no argument list (N3): any list. -/
  | setColor (args : List Nat)
  /-- R157. -/
  | drawPixel (a b : Nat)
  /-- R158. The source states no argument list (N3): any list; so in R159 to R163. -/
  | drawLine (args : List Nat)
  /-- R159. -/
  | fillRect (args : List Nat)
  /-- R160. -/
  | drawCircle (args : List Nat)
  /-- R161. -/
  | fillCircle (args : List Nat)
  /-- R162. -/
  | drawTriangle (args : List Nat)
  /-- R163. -/
  | fillTriangle (args : List Nat)
  /-- R164. Numeric arguments, then the code points of the string. -/
  | text (args chars : List Nat)
  /-- R165. Numeric arguments, then the code points of the file name. -/
  | drawBitmap (args name : List Nat)
  /-- R166. -/
  | setMemoryMode (args : List Nat)
  /-- R167. -/
  | setRotation (args : List Nat)
  /-- R168. -/
  | setFont (args : List Nat)
  /-- R169. -/
  | sleep
  deriving DecidableEq, Repr

/-- The names of the sixteen typed operations (R80). -/
inductive TypedOp where
  | clear | update | setColor | drawPixel | drawLine | fillRect | drawCircle | fillCircle | drawTriangle | fillTriangle
  | text | drawBitmap | setMemoryMode | setRotation | setFont | sleep
  deriving DecidableEq, Repr

/-- The words of one instruction, as the caller presents them.
`request`: the signals req_op, req_cmd, req_len and the payload stream of R36 and R75.
`frame`: the bytes of a wire frame in index order (R41, R51).
`call`: a typed operation called by its name (R80); the spec gives such a call no bits of its own (log 12). -/
inductive Words where
  | request (op : BitVec 2) (cmd : Byte) (len : Word16) (stream : List Byte)
  | frame (bytes : List Byte)
  | call (op : TypedOp) (args chars : List Nat)
  deriving DecidableEq, Repr

/-- Why words are no instruction. -/
inductive DecodeError where
  /-- The payload stream does not hold exactly req_len bytes (R36). -/
  | payloadCount
  /-- A frame has at least 9 bytes (R67). -/
  | frameShort
  /-- Frame byte 0 is not 0xA5 (R61). -/
  | badStart
  /-- LEN is not the frame's length (R62, R67). -/
  | badLength
  /-- A frame has at most 512 bytes (R67, R73). -/
  | frameLong
  /-- The trailer bytes are not CC 33 C3 3C (R65). -/
  | badTrailer
  /-- The last byte is not the XOR of the bytes before it (R66). -/
  | badChecksum
  /-- The call's argument list is not that of its operation (R154 to R169). -/
  | callShape
  deriving DecidableEq, Repr

end Sys2Proof
end

