-- ==== Sys2Proof/Decode.lean ====
section
/-! DEFINITION. The bit-field and byte-order helpers of 00_scope.md R10, the decoder of presented words, and the encoder
(R51, R60, R75). -/

namespace Sys2Proof

/-- `hi8(v) = (v div 256) mod 256` (R10). -/
def hi8 (v : Nat) : Byte := BitVec.ofNat 8 (v / 256)

/-- `lo8(v) = v mod 256` (R10). -/
def lo8 (v : Nat) : Byte := BitVec.ofNat 8 v

/-- `be16(v)`: the high byte first (R10, R40, R69). -/
def be16 (v : Nat) : List Byte := [hi8 v, lo8 v]

/-- Two bytes read back as one 16-bit value, high byte first (R43). -/
def fromBe16 (h l : Byte) : Nat := h.toNat * 256 + l.toNat

/-- `xor_fold(s)`: the XOR of every byte, 0 for no byte (R10). -/
def xorFold (s : List Byte) : Byte := s.foldl (· ^^^ ·) 0

/-- The payload of a request: exactly `len` bytes of the stream; no byte is an absent payload (R36). DESIGN CHOICE (log 13): a
payload of more than 65535 bytes, which R29 allows and R182 answers with PayloadTooLarge, fits no `req_len` of 16 bits, so no
words at the port carry it; `exec` gives it its PayloadTooLarge. -/
def decodePayload (len : Word16) (stream : List Byte) : Except DecodeError (Option (List Byte)) :=
  if stream.length = len.toNat then .ok (if stream.isEmpty then none else some stream) else .error .payloadCount

/-- A request by its req_op (R75). All four codes are used; RESET and WAKE ignore the other inputs. -/
def decodeRequest (op : BitVec 2) (cmd : Byte) (len : Word16) (stream : List Byte) : Except DecodeError Instr :=
  if op = 0b00 then (decodePayload len stream).map (Instr.encode cmd)
  else if op = 0b01 then (decodePayload len stream).map (Instr.send cmd)
  else if op = 0b10 then .ok .reset
  else .ok .wake

/-- What a frame of the offset map of R51 carries, once its start, length, trailer and checksum are in order. The frame of
0x2E with no payload is `clear` (R154); every other command byte is a FRAME row, since the command values of the other
typed operations are open (R152, log 11). -/
def decodeFields (cmd : Byte) (pl : List Byte) : Instr :=
  if cmd = Config.cmdClear ∧ pl = [] then .clear else .frame cmd pl

/-- A frame by the offset map of R51: LEN delimits it (R68, R74). -/
def decodeFrame (bytes : List Byte) : Except DecodeError Instr :=
  match bytes with
  | start :: lenHi :: lenLo :: cmd :: rest =>
    if rest.length < 5 then .error .frameShort
    else if start ≠ Config.startByte then .error .badStart
    else if fromBe16 lenHi lenLo ≠ bytes.length then .error .badLength
    else if Config.maxFrame < bytes.length then .error .frameLong
    else if (rest.drop (rest.length - 5)).take 4 ≠ Config.trailer then .error .badTrailer
    else if rest.drop (rest.length - 1) ≠ [xorFold (bytes.take (bytes.length - 1))] then .error .badChecksum
    else .ok (decodeFields cmd (rest.take (rest.length - 5)))
  | _ => .error .frameShort

/-- A typed operation called by name, with the operands of its rule (R154 to R169). -/
def decodeCall (op : TypedOp) (args chars : List Nat) : Except DecodeError Instr :=
  match op, args, chars with
  | .clear, [], [] => .ok .clear
  | .update, [], [] => .ok .update
  | .setColor, args, [] => .ok (.setColor args)
  | .drawPixel, [a, b], [] => .ok (.drawPixel a b)
  | .drawLine, args, [] => .ok (.drawLine args)
  | .fillRect, args, [] => .ok (.fillRect args)
  | .drawCircle, args, [] => .ok (.drawCircle args)
  | .fillCircle, args, [] => .ok (.fillCircle args)
  | .drawTriangle, args, [] => .ok (.drawTriangle args)
  | .fillTriangle, args, [] => .ok (.fillTriangle args)
  | .text, args, chars => .ok (.text args chars)
  | .drawBitmap, args, chars => .ok (.drawBitmap args chars)
  | .setMemoryMode, args, [] => .ok (.setMemoryMode args)
  | .setRotation, args, [] => .ok (.setRotation args)
  | .setFont, args, [] => .ok (.setFont args)
  | .sleep, [], [] => .ok .sleep
  | _, _, _ => .error .callShape

/-- The decoder: total on every word a caller can present. -/
def decode : Words → Except DecodeError Instr
  | .request op cmd len stream => decodeRequest op cmd len stream
  | .frame bytes => decodeFrame bytes
  | .call op args chars => decodeCall op args chars

/-! ## The encoder -/

/-- The request words of an operation with operands (R36, R75). -/
def requestWords (op : BitVec 2) (cmd : Byte) (payload : Option (List Byte)) : Words :=
  .request op cmd (BitVec.ofNat 16 (payload.getD []).length) (payload.getD [])

/-- The frame of a command and a payload, written down from the offset map of R51, with the checksum of R76. -/
def frameWords (cmd : Byte) (pl : List Byte) : List Byte :=
  [0xA5, hi8 (pl.length + 9), lo8 (pl.length + 9), cmd] ++ pl ++ [0xCC, 0x33, 0xC3, 0x3C] ++
    [0xA5 ^^^ hi8 (pl.length + 9) ^^^ lo8 (pl.length + 9) ^^^ cmd ^^^ xorFold pl]

/-- The words of an instruction: the request port for the block's operations (R75), the wire image for FRAME and `clear`
(R60, R154), the call by name for the other typed operations (R80, log 12). -/
def encode : Instr → Words
  | .encode cmd pl => requestWords 0b00 cmd pl
  | .send cmd pl => requestWords 0b01 cmd pl
  | .reset => .request 0b10 0 0 []
  | .wake => .request 0b11 0 0 []
  | .frame cmd pl => .frame (frameWords cmd pl)
  | .clear => .frame [0xA5, 0x00, 0x09, 0x2E, 0xCC, 0x33, 0xC3, 0x3C, 0x82]
  | .update => .call .update [] []
  | .setColor args => .call .setColor args []
  | .drawPixel a b => .call .drawPixel [a, b] []
  | .drawLine args => .call .drawLine args []
  | .fillRect args => .call .fillRect args []
  | .drawCircle args => .call .drawCircle args []
  | .fillCircle args => .call .fillCircle args []
  | .drawTriangle args => .call .drawTriangle args []
  | .fillTriangle args => .call .fillTriangle args []
  | .text args chars => .call .text args chars
  | .drawBitmap args name => .call .drawBitmap args name
  | .setMemoryMode args => .call .setMemoryMode args []
  | .setRotation args => .call .setRotation args []
  | .setFont args => .call .setFont args []
  | .sleep => .call .sleep [] []

/-! ## The opcode table's numbering -/

/-- The `k` bytes of a number, the least significant first. -/
def bytesOf : Nat → Nat → List Byte
  | 0, _ => []
  | k + 1, w => BitVec.ofNat 8 w :: bytesOf k (w / 256)

/-- The words that `nbits` bits of the opcode table stand for. Up to one byte: bits 1:0 are req_op (R75), and every other
input is zero. More: a frame, which the table's match numbers with START as the most significant byte (row `clear`); a
number whose most significant byte is not START is read with START as the least significant one (log 13). -/
def tableWords (nbits w : Nat) : Words :=
  if nbits ≤ 8 then .request (BitVec.ofNat 2 w) 0 0 []
  else
    let low := bytesOf ((nbits + 7) / 8) w
    if low.getLast? = some Config.startByte then .frame low.reverse else .frame low

/-- The instruction the decoder reads from `nbits` bits `w` numbered as the opcode table numbers them. -/
def decodeTableWord (nbits w : Nat) : Option Instr :=
  match decode (tableWords nbits w) with
  | .ok i => some i
  | .error _ => none

end Sys2Proof
end

