-- ==== Sys2Proof/Machine/State.lean ====
section
/-! DEFINITION. The state of the block as plain data (10_state.md), the reasons for which it stops, and the state after
construction (R34, R210). -/

namespace Sys2Proof.Machine

/-- The two control lines (R21). -/
inductive Line where
  | reset
  | wake
  deriving DecidableEq, Repr

/-- A driven level: low is 0, high is 1 (R135). -/
inductive Level where
  | low
  | high
  deriving DecidableEq, Repr

/-- The phase index `ph` of R26 and R132: 0 idle, then the six steps of a pulse train, each named by the step it takes. -/
inductive Phase where
  /-- ph = 0 -/
  | idle
  /-- ph = 1: GpioSet(ln, 0) -/
  | drive1
  /-- ph = 2: Sleep(T1) -/
  | hold1
  /-- ph = 3: GpioSet(ln, 1) -/
  | drive2
  /-- ph = 4: Sleep(T2) -/
  | hold2
  /-- ph = 5: GpioSet(ln, 0) -/
  | drive3
  /-- ph = 6: Sleep(T3) -/
  | hold3
  deriving DecidableEq, Repr

/-- The transport's answer to a write: Written(k) or Error (R11, R112). -/
inductive TxAnswer where
  | written (k : Nat)
  | error
  deriving DecidableEq, Repr

/-- A collaborator call as the history records it (R32). -/
inductive Event where
  | gpioSet (line : Line) (level : Level)
  | sleep (asked elapsed : Nat)
  | txWrite (bytes : List Byte) (answer : TxAnswer)
  deriving DecidableEq, Repr

/-- A completion status with the information its error carries (R27, R180 to R184). -/
inductive Status where
  | ok
  | invalidCommand (cmd : Byte)
  | payloadTooLarge (n : Nat)
  | transportError (answer : TxAnswer)
  deriving DecidableEq, Repr

/-- One completion: the status, and for an ENCODE that ended OK its frame (R36). -/
structure Completion where
  status : Status
  frame  : Option (List Byte)
  deriving DecidableEq, Repr

/-- The six hold durations asked of the clock, in microseconds: static parameters fixed at construction (R9, R28). -/
structure Holds where
  rstLow1  : Nat
  rstHigh  : Nat
  rstLow2  : Nat
  wakeLow1 : Nat
  wakeHigh : Nat
  wakeLow2 : Nat
  deriving DecidableEq, Repr

/-- How an accepted operation runs. Log 2. -/
inductive Realisation where
  /-- Whole in one step (R110, R125, R126). -/
  | transaction
  /-- Cut into the steps of R132 and, for a SEND, into the bytes counted by `bi` (R26); each hold is one Sleep of the clock. -/
  | stepwise
  /-- As `stepwise`, but each hold is counted down by the block itself, one step for each period of its clock (R133). -/
  | clocked
  /-- As `clocked`, and the payload and the frame, of an ENCODE too, pass byte by byte through the ports of R36, each byte
  when both sides of its port are ready. -/
  | ported
  deriving DecidableEq, Repr

/-- The block counts its holds itself (R133). -/
def Realisation.counted : Realisation → Bool
  | .transaction => false
  | .stepwise => false
  | .clocked => true
  | .ported => true

/-- Where the frame in flight goes: to the caller for ENCODE, to the transport for SEND (R36). -/
inductive Destination where
  | caller
  | transport
  deriving DecidableEq, Repr

/-- The machine's state. -/
structure State where
  /-- RESET_LINE; `none` is never driven (R21, R34). -/
  resetLine : Option Level
  /-- WAKE_LINE (R21, R34). -/
  wakeLine : Option Level
  /-- The phase index (R26). -/
  ph : Phase
  /-- The active line, meaningful only while `ph` is not idle (R26). -/
  ln : Line
  /-- The byte index: frame bytes handed over during a SEND (R26). -/
  bi : Nat
  /-- The frame in flight, empty when there is none (R29, R31). While the payload arrives through its port, the frame's bytes so
  far. -/
  frame : List Byte
  /-- The payload bytes of the accepted request that have still to arrive through the payload port (R36). -/
  stream : List Byte
  /-- Where the frame in flight goes (R36). -/
  dest : Destination
  /-- The hold down-counter of the tick-count realisation: the clock periods the hold has still to last (R133); 0 outside a
  hold and in the other realisations (log 6). -/
  tick : Nat
  /-- The hold parameters (R9). -/
  holds : Holds
  /-- How accepted operations run (log 2). -/
  realisation : Realisation
  /-- The event history (R32). -/
  hist : List Event
  /-- The current instant in microseconds (R33). -/
  now : Nat
  /-- The completion output: present only when the last step completed an operation (R27, R36). -/
  done : Option Completion
  /-- Every completion since construction, oldest first (D20). -/
  results : List Completion
  /-- Input: the words the caller has still to present; the first stands at the request port (R36, R52). -/
  requests : List Words
  /-- Input: the transport's next answers (R112). -/
  txAnswers : List TxAnswer
  /-- Input: the time each coming collaborator call takes beyond what is asked of it (R33). -/
  delays : List Nat
  /-- The number of collaborator calls made, the argument of the free values. -/
  draws : Nat
  /-- Input: for each coming transfer at a port of R36, the cycles the other side keeps the block waiting (R217). -/
  waits : List Nat
  /-- The cycles the block has waited so far for the transfer it stands at. -/
  waited : Nat
  /-- The number of transfers made, the argument of the free value. -/
  transfers : Nat
  deriving DecidableEq, Repr

/-- No constructor: "Nothing in the block is treated as `fault`" (93_implementation_defined.md part 1). Nobody raises a
fault. -/
inductive Fault where
  deriving DecidableEq, Repr

/-- Why the model gives no next state. All of them are safe: the model stops where it has nothing to say. -/
inductive Refusal where
  /-- Raised by the dispatch for an instruction that has no meaning yet. Safe. -/
  | notModelled (mnemonic : String)
  /-- Raised by every meaning: a second operation forced while one is in flight (R217; 93 entry U2). Safe. -/
  | busy
  /-- Raised by RESET and WAKE and by the steps of a pulse train: a hold parameter of the line below its minimum is no legal
  configuration (R9; 93 entry U14). Safe. -/
  | holdBelowMinimum
  /-- Raised by the typed operations: a numeric argument above 65535 (R69; 93 entry U16). Safe. -/
  | argumentTooWide
  /-- Raised by `text` and `draw_bitmap`: a character above U+00FF (R70; 93 entry U16). Safe. -/
  | characterNotLatin1
  /-- Raised by the step: the words at the port are no request, frame or call (log 13). Safe. -/
  | undecodable (e : DecodeError)
  deriving DecidableEq, Repr

/-- The default holds: each at its minimum (R9). -/
def Holds.default : Holds :=
  { rstLow1 := Config.rstLow1Min, rstHigh := Config.rstHighMin, rstLow2 := Config.rstLow2Min,
    wakeLow1 := Config.wakeLow1Min, wakeHigh := Config.wakeHighMin, wakeLow2 := Config.wakeLow2Min }

/-- The state after construction (R34, R210): idle, nothing in flight, no event, both lines never driven. Construction
makes no collaborator call. Log 1 to 7, 16, 18 and 23 name the values the spec does not give. -/
def State.reset : State :=
  { resetLine := none, wakeLine := none, ph := .idle, ln := .reset, bi := 0, frame := [], stream := [], dest := .transport,
    tick := 0, holds := .default, realisation := .transaction, hist := [], now := 0, done := none, results := [],
    requests := [], txAnswers := [], delays := [], draws := 0, waits := [], waited := 0,
    transfers := 0 }

end Sys2Proof.Machine
end

