-- ==== Sys2Proof/Machine/Ops.lean ====
section
/-! DEFINITION. The named operations over the state: the collaborator calls (00_scope.md R11), completion (R27, R187), the
idle guard (R217), and the hold parameters (R9, R128, R133). -/

namespace Sys2Proof.Machine

/-! ## Busy and idle -/

/-- "An operation has been accepted and has not completed" (R26): a pulse train or a SEND is in flight. -/
def State.busy (s : State) : Bool := s.ph != .idle || !s.frame.isEmpty

/-- An operation starts only from an idle block (R217); one forced onto a busy block is refused (93 entry U2). -/
def State.ifIdle (s : State) (k : Host.Outcome State Fault Refusal) : Host.Outcome State Fault Refusal :=
  if s.busy then .refused .busy else k

/-! ## The environment's draws -/

/-- The time the next collaborator call takes beyond what is asked: the next scripted delay, else a free value (R33, D10,
D28; log 4). -/
def State.nextDelay (s : State) : Nat := s.delays.head?.getD (Config.extraTime s.draws)

/-- A free draw as a transport answer. -/
def txAnswerOf : Option Nat → TxAnswer
  | some k => .written k
  | none => .error

/-- The transport's answer to the next write: the next scripted one, else a free value (R112; log 3). -/
def State.nextAnswer (s : State) : TxAnswer := s.txAnswers.head?.getD (txAnswerOf (Config.txDraw s.draws))

/-- The cycles the other side of the port keeps the block waiting at the transfer it stands at: the next scripted wait, else a
free value (R36, R217; log 23). -/
def State.nextWait (s : State) : Nat := s.waits.head?.getD (Config.portWait s.transfers)

/-- The other side of the port is ready in this cycle (R36): the wait is over. -/
def State.sideReady (s : State) : Bool := decide (s.nextWait ≤ s.waited)

/-- A cycle in which the block waits at a port, with no completion at the output (R27, R36). -/
def State.waitCycle (s : State) : State := { s with done := none, waited := s.waited + 1 }

/-- A cycle in which both sides are ready: the wait is used up, and no completion stands at the output yet (R27, R36). -/
def State.transferCycle (s : State) : State :=
  { s with done := none, waits := s.waits.tail, waited := 0, transfers := s.transfers + 1 }

/-! ## The collaborator calls -/

/-- Record a collaborator call that took `e` microseconds (R32, R33) and use up its delay. -/
def State.record (s : State) (ev : Event) (e : Nat) : State :=
  { s with hist := s.hist ++ [ev], now := s.now + e, delays := s.delays.tail, draws := s.draws + 1 }

/-- The level of a line (R21). -/
def State.line (s : State) : Line → Option Level
  | .reset => s.resetLine
  | .wake => s.wakeLine

/-- Write one line's level; the other line is left alone (R22). -/
def State.setLine (s : State) (l : Line) (v : Level) : State :=
  match l with
  | .reset => { s with resetLine := some v }
  | .wake => { s with wakeLine := some v }

/-- `GpioSet(line, level)`: always made, whatever the level before (R11, R48, R136). -/
def State.gpioSet (s : State) (l : Line) (v : Level) : State :=
  (s.setLine l v).record (.gpioSet l v) s.nextDelay

/-- `Sleep(d)`: elapses `e ≥ d` (R11, R33). -/
def State.sleep (s : State) (d : Nat) : State :=
  s.record (.sleep d (d + s.nextDelay)) (d + s.nextDelay)

/-- A collaborator call of the history that takes no time and draws nothing. -/
def State.note (s : State) (ev : Event) : State := { s with hist := s.hist ++ [ev] }

/-- Time passes (R33). -/
def State.elapse (s : State) (e : Nat) : State := { s with now := e + s.now }

/-- `GpioSet(line, level)` at an edge of the block's own clock: the line takes the level at that edge (R133, log 22). -/
def State.gpioAtEdge (s : State) (l : Line) (v : Level) : State := (s.setLine l v).note (.gpioSet l v)

/-- `TxWrite(bytes)`: one call with the whole frame, answered by `s.nextAnswer` (R11, R45). -/
def State.txWrite (s : State) (bytes : List Byte) : State :=
  { s.record (.txWrite bytes s.nextAnswer) s.nextDelay with txAnswers := s.txAnswers.tail }

/-- `MemRead(addr, n)` on the operand payload, the only storage the block reads (R11, R29, R47). -/
def memRead (pl : List Byte) (addr n : Nat) : List Byte := (pl.drop addr).take n

/-! ## Completion -/

/-- Complete the operation in flight with its status and, for ENCODE, its frame (R27, R36). An error is a completion like
any other and the block's whole reaction to it: no handler, no saved state, no retry (R187, R188). -/
def State.complete (s : State) (status : Status) (frame : Option (List Byte)) : State :=
  { s with done := some { status := status, frame := frame },
           results := s.results ++ [{ status := status, frame := frame }] }

/-- No completion at the output: it is not latched (R27). -/
def State.noDone (s : State) : State := { s with done := none }

/-! ## The hold parameters -/

/-- The duration of hold 1 of a line's pulse train (R125, R126). -/
def Holds.t1 (h : Holds) : Line → Nat
  | .reset => h.rstLow1
  | .wake => h.wakeLow1

/-- The duration of hold 2. -/
def Holds.t2 (h : Holds) : Line → Nat
  | .reset => h.rstHigh
  | .wake => h.wakeHigh

/-- The duration of hold 3. -/
def Holds.t3 (h : Holds) : Line → Nat
  | .reset => h.rstLow2
  | .wake => h.wakeLow2

/-- The documented minimum of hold 1 (R8, R128). -/
def minT1 : Line → Nat
  | .reset => Config.rstLow1Min
  | .wake => Config.wakeLow1Min

/-- The documented minimum of hold 2. -/
def minT2 : Line → Nat
  | .reset => Config.rstHighMin
  | .wake => Config.wakeHighMin

/-- The documented minimum of hold 3. -/
def minT3 : Line → Nat
  | .reset => Config.rstLow2Min
  | .wake => Config.wakeLow2Min

/-- The holds of a line are a legal configuration: each at least its minimum (R9, R128; 93 entry U14). -/
def Holds.legal (h : Holds) (l : Line) : Bool :=
  decide (minT1 l ≤ h.t1 l) && decide (minT2 l ≤ h.t2 l) && decide (minT3 l ≤ h.t3 l)

/-- `N(T) = ceil(T × F_CLK_HZ / 1000000)`, the clock periods of a hold of `t` microseconds (R133, D19). -/
def ticks (f t : Nat) : Nat := (t * f + 999999) / 1000000

/-- The whole microseconds that `n` periods of a clock of `f` Hz last (R10, R133, log 22). -/
def micros (f n : Nat) : Nat := n * 1000000 / f

/-- N(T) at the block's own clock frequency (R133). -/
def periods (t : Nat) : Nat := ticks Config.fClkHz t

/-- The whole microseconds that `n` periods of the block's own clock last (R133, log 22). -/
@[irreducible] def clockTime (n : Nat) : Nat := micros Config.fClkHz n

/-- The time of the clock period of a hold of `t` at whose start the hold counter reads `c`, in whole microseconds as they
add up over the hold (R133, log 22). -/
def periodTime (t c : Nat) : Nat := clockTime (periods t - c + 1) - clockTime (periods t - c)

/-- The time a counted hold of `t` takes: its N(T) periods (R133). -/
def heldFor (t : Nat) : Nat := clockTime (periods t)

/-- `ceil(log2(n + 1))`, the bits of a down-counter that starts at `n` (R133). -/
def counterBits (n : Nat) : Nat := Nat.clog 2 (n + 1)

end Sys2Proof.Machine
end

