-- ==== Sys2Proof/Machine/Pulse.lean ====
section
/-! DEFINITION. The pulse sequencer and the operations RESET and WAKE (42_pulse_sequencer.md), whole, step by step, and
clock period by clock period. -/

namespace Sys2Proof.Machine

/-- Latch the active line when the request is accepted (R26, R132). -/
def State.latch (s : State) (l : Line) : State := { s with ln := l }

/-- The six collaborator calls of a pulse train in order (R125, R126, R127). -/
def State.pulseCalls (s : State) (l : Line) : State :=
  (((((s.gpioSet l .low).sleep (s.holds.t1 l)).gpioSet l .high).sleep (s.holds.t2 l)).gpioSet l .low).sleep (s.holds.t3 l)

/-- A pulse train in one step: the six calls, then OK (R131). -/
def State.pulseWhole (s : State) (l : Line) : State := ((s.latch l).pulseCalls l).complete .ok none

/-- A pulse train accepted step by step: row 0 of the table of R132. -/
def State.pulseStart (s : State) (l : Line) : State := { s with done := none, ln := l, ph := .drive1 }

/-- Go on to a phase with a value in the hold counter; no completion stands at the output. -/
def State.toPhase (s : State) (next : Phase) (count : Nat) : State := { s with done := none, ph := next, tick := count }

/-- A drive step of R132: the line takes its level. Where the block counts its holds it does so at a clock edge, and the hold
counter is loaded with N(T) (R133). -/
def State.driveStep (s : State) (v : Level) (t : Nat) (next : Phase) : State :=
  if s.realisation.counted then (s.gpioAtEdge s.ln v).toPhase next (periods t)
  else (s.gpioSet s.ln v).toPhase next 0

/-- One clock period of a hold of `t`: the counter counts down, and at the edge at which it runs out the hold is over, after
N(T) periods (R133). -/
def State.countStep (s : State) (t : Nat) (next : Phase) : State :=
  if s.tick ≤ 1 then
    ((s.elapse (periodTime t s.tick)).note (.sleep t (heldFor t))).toPhase next 0
  else (s.elapse (periodTime t s.tick)).toPhase s.ph (s.tick - 1)

/-- A step of a hold of R132: the whole Sleep, or one clock period of it (R133). -/
def State.holdStep (s : State) (t : Nat) (next : Phase) : State :=
  if s.realisation.counted then s.countStep t next else (s.sleep t).toPhase next 0

/-- The pulse train completes with OK when its last hold is over (R131, R132). -/
def State.endTrain (s : State) : State := if s.ph = .idle then s.complete .ok none else s

/-- One row of the table of R132. -/
def State.phaseStep (s : State) : State :=
  match s.ph with
  | .idle => s.noDone
  | .drive1 => s.driveStep .low (s.holds.t1 s.ln) .hold1
  | .hold1 => s.holdStep (s.holds.t1 s.ln) .drive2
  | .drive2 => s.driveStep .high (s.holds.t2 s.ln) .hold2
  | .hold2 => s.holdStep (s.holds.t2 s.ln) .drive3
  | .drive3 => s.driveStep .low (s.holds.t3 s.ln) .hold3
  | .hold3 => (s.holdStep (s.holds.t3 s.ln) .idle).endTrain

/-- A line's holds must be a legal configuration (R9; 93 entry U14). -/
def State.ifLegal (s : State) (l : Line) (k : Host.Outcome State Fault Refusal) : Host.Outcome State Fault Refusal :=
  if s.holds.legal l then k else .refused .holdBelowMinimum

/-- The next step of the pulse train in flight. -/
def pulseStep (s : State) : Host.Outcome State Fault Refusal := s.ifLegal s.ln (.next s.phaseStep)

/-- Issue a pulse train on a line. -/
def issuePulse (l : Line) (s : State) : Host.Outcome State Fault Refusal :=
  s.ifIdle <| s.ifLegal l <|
    match s.realisation with
    | .transaction => .next (s.pulseWhole l)
    | .stepwise => .next (s.pulseStart l)
    | .clocked => .next (s.pulseStart l)
    | .ported => .next (s.pulseStart l)

/-- RESET (R125). -/
def execReset (s : State) : Host.Outcome State Fault Refusal := issuePulse .reset s

/-- WAKE (R126). -/
def execWake (s : State) : Host.Outcome State Fault Refusal := issuePulse .wake s

end Sys2Proof.Machine
end

