-- ==== Sys2Proof/Machine/Operands.lean ====
section
/-! DEFINITION. The operand forms: an optional payload (R101), numeric arguments (R69, R151), characters (R70), and what
each typed operation hands to SEND (R150). -/

namespace Sys2Proof.Machine

/-- An absent payload is the empty sequence (R101). -/
def payloadOf (payload : Option (List Byte)) : List Byte := payload.getD []

/-- Every numeric argument has an encoding: 0 to 65535 (R69, D15). -/
def argsFit (args : List Nat) : Bool := args.all (fun v => decide (v < 65536))

/-- Every character has an encoding: code points 0 to 255 (R70, D16). -/
def charsFit (chars : List Nat) : Bool := chars.all (fun u => decide (u < 256))

/-- Numeric arguments in order, two bytes each, with nothing between them (R69, R151). -/
def numericPayload (args : List Nat) : List Byte := args.flatMap be16

/-- One byte per character in string order, no terminator, no length prefix (R70). -/
def latin1 (chars : List Nat) : List Byte := chars.map (BitVec.ofNat 8)

/-- The `(command, payload)` pair each instruction hands to SEND (R150, R154 to R169); `none` for the instructions that
hand nothing to SEND. -/
def sendOperands : Instr → Option (Byte × List Byte)
  | .encode _ _ => none
  | .send cmd pl => some (cmd, payloadOf pl)
  | .reset => none
  | .wake => none
  | .frame cmd pl => some (cmd, pl)
  | .clear => some (Config.cmdClear, [])
  | .update => some (Config.cmdUpdate, Config.updatePayload)
  | .setColor args => some (Config.cmdSetColor, Config.setColorPayload args)
  | .drawPixel a b => some (Config.cmdDrawPixel, be16 a ++ be16 b)
  | .drawLine args => some (Config.cmdDrawLine, numericPayload args)
  | .fillRect args => some (Config.cmdFillRect, numericPayload args)
  | .drawCircle args => some (Config.cmdDrawCircle, numericPayload args)
  | .fillCircle args => some (Config.cmdFillCircle, numericPayload args)
  | .drawTriangle args => some (Config.cmdDrawTriangle, numericPayload args)
  | .fillTriangle args => some (Config.cmdFillTriangle, numericPayload args)
  | .text args chars => some (Config.cmdText, numericPayload args ++ latin1 chars)
  | .drawBitmap args name => some (Config.cmdDrawBitmap, numericPayload args ++ latin1 name)
  | .setMemoryMode args => some (Config.cmdSetMemoryMode, Config.setMemoryModePayload args)
  | .setRotation args => some (Config.cmdSetRotation, Config.setRotationPayload args)
  | .setFont args => some (Config.cmdSetFont, Config.setFontPayload args)
  | .sleep => some (Config.cmdSleep, Config.sleepPayload)

end Sys2Proof.Machine
end

