-- ==== Sys2Proof/Machine/Encoder.lean ====
section
/-! DEFINITION. The frame encoder and the operation ENCODE (40_frame_encoder.md). -/

namespace Sys2Proof.Machine

/-- The two errors of the encoder with the information they carry (R182, R183, R190). -/
inductive EncodeError where
  | invalidCommand (cmd : Byte)
  | payloadTooLarge (n : Nat)
  deriving DecidableEq, Repr

/-- The completion status of an encoder error (R184). -/
def EncodeError.status : EncodeError → Status
  | .invalidCommand c => .invalidCommand c
  | .payloadTooLarge n => .payloadTooLarge n

/-- Step 1: the body (R93). -/
def frameBody (cmd : Byte) (pl : List Byte) : List Byte := [cmd] ++ memRead pl 0 pl.length

/-- Step 2: LEN (R62, R94). -/
def frameLen (cmd : Byte) (pl : List Byte) : Nat := (frameBody cmd pl).length + Config.fixedOverhead

/-- Step 3: the frame without its checksum (R95). -/
def frameWithoutChecksum (cmd : Byte) (pl : List Byte) : List Byte :=
  [Config.startByte, hi8 (frameLen cmd pl), lo8 (frameLen cmd pl)] ++ frameBody cmd pl ++ Config.trailer

/-- Steps 4 and 5: the checksum over all of it, appended (R66, R96, R97). -/
def buildFrame (cmd : Byte) (pl : List Byte) : List Byte :=
  frameWithoutChecksum cmd pl ++ [xorFold (frameWithoutChecksum cmd pl)]

/-- `ENCODE(cmd, PL)` (R90): the command check (R91), then the bound (R92), then the five steps. It reads no state (R98). -/
def encodeFrame (cmd : Byte) (pl : List Byte) : Except EncodeError (List Byte) :=
  if Config.inCmdSet cmd then
    if Config.maxPayload < pl.length then .error (.payloadTooLarge pl.length) else .ok (buildFrame cmd pl)
  else .error (.invalidCommand cmd)

/-- The completion of an ENCODE: OK with the frame, or the error and no frame (R36, R187). -/
def encodeCompletion (cmd : Byte) (pl : List Byte) : Completion :=
  match encodeFrame cmd pl with
  | .ok bytes => { status := .ok, frame := some bytes }
  | .error e => { status := e.status, frame := none }

/-- ENCODE in one step: nothing but the completion output changes (R98). -/
def State.encodeWhole (s : State) (cmd : Byte) (pl : List Byte) : State :=
  s.complete (encodeCompletion cmd pl).status (encodeCompletion cmd pl).frame

/-! ## The encoder behind the ports of R36 (log 23) -/

/-- The bytes of a frame that the command and the payload's length fix (R61 to R63). -/
def frameHeader (cmd : Byte) (pl : List Byte) : List Byte :=
  [Config.startByte, hi8 (frameLen cmd pl), lo8 (frameLen cmd pl), cmd]

/-- Close a frame whose payload is whole: the trailer, then the checksum over all of it (R65, R66). -/
def sealFrame (bytes : List Byte) : List Byte := bytes ++ Config.trailer ++ [xorFold (bytes ++ Config.trailer)]

/-- The frame in flight is closed as soon as no payload byte is missing (R223). -/
def State.sealWhole (s : State) : State := if s.stream = [] then { s with frame := sealFrame s.frame } else s

/-- Accept an ENCODE or a SEND at the ports: both checks need the command and the length alone and come before any byte
(R91, R92, R223); then the payload is awaited (R36). -/
def State.portStart (s : State) (dest : Destination) (cmd : Byte) (pl : List Byte) : State :=
  match encodeFrame cmd pl with
  | .ok _ =>
    State.sealWhole { s with done := none, frame := frameHeader cmd pl, stream := pl, bi := 0, dest := dest }
  | .error e => s.complete e.status none

/-- ENCODE (R90): at once, or through the ports. -/
def execEncode (cmd : Byte) (payload : Option (List Byte)) (s : State) : Host.Outcome State Fault Refusal :=
  s.ifIdle <|
    match s.realisation with
    | .transaction => .next (s.encodeWhole cmd (payloadOf payload))
    | .stepwise => .next (s.encodeWhole cmd (payloadOf payload))
    | .clocked => .next (s.encodeWhole cmd (payloadOf payload))
    | .ported => .next (s.portStart .caller cmd (payloadOf payload))

end Sys2Proof.Machine
end

