-- ==== Sys2Proof/Machine/Flags.lean ====
section
/-! DEFINITION. The block has no flags (R27); this file holds what stands in their place: the status computed for a write
(R112), the status codes (R184), and the signals of R36. -/

namespace Sys2Proof.Machine

/-- The status of a SEND whose frame was written: OK iff the transport's answer is Written(length(F)) (R112, D12). -/
def sendStatus (bytes : List Byte) (answer : TxAnswer) : Status :=
  if answer = .written bytes.length then .ok else .transportError answer

/-- The 2-bit status code (R184). -/
def Status.code : Status → BitVec 2
  | .ok => 0b00
  | .invalidCommand _ => 0b01
  | .payloadTooLarge _ => 0b10
  | .transportError _ => 0b11

/-- The level as the bit on the line: low is 0, high is 1 (R135). -/
def Level.bit : Level → BitVec 1
  | .low => 0
  | .high => 1

/-- The phase index as a natural (R132). -/
def Phase.index : Phase → Nat
  | .idle => 0
  | .drive1 => 1
  | .hold1 => 2
  | .drive2 => 3
  | .hold2 => 4
  | .drive3 => 5
  | .hold3 => 6

/-! ## The signals of R36
`clk` is the step itself. `req_op`, `req_cmd` and `req_len` are the fields of `Words.request` at the port. -/

/-- `req_valid`: the caller presents a request. -/
def State.reqValid (s : State) : Bool := !s.requests.isEmpty

/-- `req_ready` is `not busy`. -/
def State.reqReady (s : State) : Bool := !s.busy

/-- `pl_ready`: the block awaits a payload byte. -/
def State.plReady (s : State) : Bool := !s.stream.isEmpty

/-- `pl_data`: the payload bytes in index order. -/
def State.plData (s : State) : Option Byte := s.stream.head?

/-- `pl_valid`, read while the block awaits a payload byte. -/
def State.plValid (s : State) : Bool := s.plReady && s.sideReady

/-- `frm_valid`: the frame in flight is whole and has a byte still to hand over (R26). -/
def State.frmValid (s : State) : Bool := s.stream.isEmpty && decide (s.bi < s.frame.length)

/-- `frm_data`: the byte at index `bi` (R26, R41), for the receiver that `dest` names. -/
def State.frmData (s : State) : Option Byte := s.frame[s.bi]?

/-- `frm_last`: the byte at the port is the frame's last one. -/
def State.frmLast (s : State) : Bool := decide (s.bi + 1 = s.frame.length)

/-- `frm_ready`, read while the block offers a frame byte. -/
def State.frmReady (s : State) : Bool := s.frmValid && s.sideReady

/-- The block awaits the transport's answer: the frame of a SEND is over. -/
def State.awaitsAnswer (s : State) : Bool :=
  !s.frame.isEmpty && s.stream.isEmpty && decide (s.frame.length ≤ s.bi)

/-- `tx_result_valid`, read while the block awaits the transport's answer. -/
def State.txResultValid (s : State) : Bool := s.awaitsAnswer && s.sideReady

/-- `tx_result_err`: the answer is Error (R112). -/
def State.txResultErr (s : State) : Bool := decide (s.nextAnswer = .error)

/-- `tx_result_count`: the count of an answer Written(k); none where 16 bits do not hold it (log 23). -/
def State.txResultCount (s : State) : Option Word16 :=
  match s.nextAnswer with
  | .written k => if k < 65536 then some (BitVec.ofNat 16 k) else none
  | .error => none

/-- `done_valid`: the operation in flight completed in this step. -/
def State.doneValid (s : State) : Bool := s.done.isSome

/-- `done_status`, meaningful while `done_valid`. -/
def State.doneStatus (s : State) : Option (BitVec 2) := s.done.map (fun c => c.status.code)

/-- `reset_line` and `wake_line`; `none` before the line is first driven (R34). -/
def State.linePin (s : State) (l : Line) : Option (BitVec 1) := (s.line l).map Level.bit

end Sys2Proof.Machine
end

