-- ==== Sys2Proof/Machine/Send.lean ====
section
/-! DEFINITION. The operation SEND (41_send.md), whole, byte by byte, and through the ports of 10_state.md R36. -/

namespace Sys2Proof.Machine

/-- The write of an encoded frame and the completion by the transport's answer (R110 to R112). -/
def State.writeFrame (s : State) (bytes : List Byte) : State :=
  (s.txWrite bytes).complete (sendStatus bytes s.nextAnswer) none

/-- SEND in one step (R110). An encoder error ends it with no write (R113, R187). -/
def State.sendWhole (s : State) (cmd : Byte) (pl : List Byte) : State :=
  match encodeFrame cmd pl with
  | .ok bytes => s.writeFrame bytes
  | .error e => s.complete e.status none

/-- SEND accepted byte by byte: both checks pass before byte 0 leaves, and the frame is a function of the operands sampled
at acceptance (R26, R55, R223). -/
def State.sendStart (s : State) (cmd : Byte) (pl : List Byte) : State :=
  match encodeFrame cmd pl with
  | .ok bytes => { s with done := none, frame := bytes, bi := 0 }
  | .error e => s.complete e.status none

/-- Nothing of a frame remains after its SEND (R31), and the byte index is 0 again (R26). -/
def State.discard (s : State) : State := { s with frame := [], bi := 0 }

/-- One step of a SEND in flight: hand over the byte at `bi`; after the last one the transport's answer completes the SEND
(R26, R31). -/
def State.sendStep (s : State) : State :=
  if s.bi < s.frame.length then { s with done := none, bi := s.bi + 1 }
  else (s.writeFrame s.frame).discard

/-- Nothing of a frame remains after its operation at the ports (R31). -/
def State.release (s : State) : State := { s.discard with dest := .transport }

/-- An ENCODE completes with its frame in the cycle in which the caller takes the last byte (R36). -/
def State.endEncode (s : State) : State :=
  if s.dest = .caller ∧ s.bi = s.frame.length then (s.complete .ok (some s.frame)).release else s

/-- What a cycle at a port does when both sides are ready (R36): the payload port takes the next byte of the payload; the frame
port hands over the byte at `bi`; and once a SEND's frame is over, the transport's answer completes it (R112). -/
def State.transfer (s : State) : State :=
  match s.stream with
  | b :: rest => State.sealWhole { s with frame := s.frame ++ [b], stream := rest }
  | [] =>
    if s.bi < s.frame.length then State.endEncode { s with bi := s.bi + 1 }
    else (s.writeFrame s.frame).release

/-- One cycle of an ENCODE or a SEND at the ports: a transfer if the other side is ready, else a wait (R36). -/
def State.portStep (s : State) : State := if s.sideReady then s.transferCycle.transfer else s.waitCycle

/-- One step of the frame in flight. -/
def State.flightStep (s : State) : State :=
  match s.realisation with
  | .transaction => s.sendStep
  | .stepwise => s.sendStep
  | .clocked => s.sendStep
  | .ported => s.portStep

/-- Issue a SEND to the block. -/
def issueSend (cmd : Byte) (pl : List Byte) (s : State) : Host.Outcome State Fault Refusal :=
  s.ifIdle <|
    match s.realisation with
    | .transaction => .next (s.sendWhole cmd pl)
    | .stepwise => .next (s.sendStart cmd pl)
    | .clocked => .next (s.sendStart cmd pl)
    | .ported => .next (s.portStart .transport cmd pl)

/-- SEND (R110). -/
def execSend (cmd : Byte) (payload : Option (List Byte)) (s : State) : Host.Outcome State Fault Refusal :=
  issueSend cmd (payloadOf payload) s

/-- FRAME (R60): the wire image of `(cmd, payload)` is put on the link by the SEND of that pair (R78; log 11). -/
def execFrame (cmd : Byte) (payload : List Byte) (s : State) : Host.Outcome State Fault Refusal :=
  issueSend cmd payload s

end Sys2Proof.Machine
end

