-- ==== Sys2Proof/Machine/Typed.lean ====
section
/-! DEFINITION. The typed operations (43_typed_operations.md): each builds its payload and delegates to SEND (R150). -/

namespace Sys2Proof.Machine

/-- The typed layer refuses a numeric argument above 65535 and issues no SEND (R69, D15). -/
def ifArgsFit (args : List Nat) (k : Host.Outcome State Fault Refusal) : Host.Outcome State Fault Refusal :=
  if argsFit args then k else .refused .argumentTooWide

/-- The typed layer refuses a character above U+00FF and issues no SEND (R70, D16). -/
def ifCharsFit (chars : List Nat) (k : Host.Outcome State Fault Refusal) : Host.Outcome State Fault Refusal :=
  if charsFit chars then k else .refused .characterNotLatin1

/-- A drawing operation whose arguments are all numeric (R151). -/
def sendNumeric (cmd : Byte) (args : List Nat) (s : State) : Host.Outcome State Fault Refusal :=
  ifArgsFit args (issueSend cmd (numericPayload args) s)

/-- An operation with numeric arguments and a text or file name (R151, R164, R165). -/
def sendText (cmd : Byte) (args chars : List Nat) (s : State) : Host.Outcome State Fault Refusal :=
  ifArgsFit args (ifCharsFit chars (issueSend cmd (numericPayload args ++ latin1 chars) s))

/-- An operation whose payload layout is open (R151, D26). -/
def sendOpen (cmd : Byte) (build : List Nat → List Byte) (args : List Nat) (s : State) : Host.Outcome State Fault Refusal :=
  ifArgsFit args (issueSend cmd (build args) s)

/-- R154: `SEND(0x2E, absent)`. -/
def execClear (s : State) : Host.Outcome State Fault Refusal := issueSend Config.cmdClear (payloadOf none) s

/-- R155. -/
def execUpdate (s : State) : Host.Outcome State Fault Refusal := issueSend Config.cmdUpdate Config.updatePayload s

/-- R156. -/
def execSetColor (args : List Nat) (s : State) : Host.Outcome State Fault Refusal :=
  sendOpen Config.cmdSetColor Config.setColorPayload args s

/-- R157. -/
def execDrawPixel (a b : Nat) (s : State) : Host.Outcome State Fault Refusal :=
  sendNumeric Config.cmdDrawPixel [a, b] s

/-- R158. -/
def execDrawLine (args : List Nat) (s : State) : Host.Outcome State Fault Refusal :=
  sendNumeric Config.cmdDrawLine args s

/-- R159. -/
def execFillRect (args : List Nat) (s : State) : Host.Outcome State Fault Refusal :=
  sendNumeric Config.cmdFillRect args s

/-- R160. -/
def execDrawCircle (args : List Nat) (s : State) : Host.Outcome State Fault Refusal :=
  sendNumeric Config.cmdDrawCircle args s

/-- R161. -/
def execFillCircle (args : List Nat) (s : State) : Host.Outcome State Fault Refusal :=
  sendNumeric Config.cmdFillCircle args s

/-- R162. -/
def execDrawTriangle (args : List Nat) (s : State) : Host.Outcome State Fault Refusal :=
  sendNumeric Config.cmdDrawTriangle args s

/-- R163. -/
def execFillTriangle (args : List Nat) (s : State) : Host.Outcome State Fault Refusal :=
  sendNumeric Config.cmdFillTriangle args s

/-- R164. -/
def execText (args chars : List Nat) (s : State) : Host.Outcome State Fault Refusal :=
  sendText Config.cmdText args chars s

/-- R165. -/
def execDrawBitmap (args name : List Nat) (s : State) : Host.Outcome State Fault Refusal :=
  sendText Config.cmdDrawBitmap args name s

/-- R166. -/
def execSetMemoryMode (args : List Nat) (s : State) : Host.Outcome State Fault Refusal :=
  sendOpen Config.cmdSetMemoryMode Config.setMemoryModePayload args s

/-- R167. -/
def execSetRotation (args : List Nat) (s : State) : Host.Outcome State Fault Refusal :=
  sendOpen Config.cmdSetRotation Config.setRotationPayload args s

/-- R168. -/
def execSetFont (args : List Nat) (s : State) : Host.Outcome State Fault Refusal :=
  sendOpen Config.cmdSetFont Config.setFontPayload args s

/-- R169. A frame like any other, not the clock's `Sleep(d)`. -/
def execSleep (s : State) : Host.Outcome State Fault Refusal := issueSend Config.cmdSleep Config.sleepPayload s

end Sys2Proof.Machine
end

