-- ==== Sys2Proof/Machine/Dispatch.lean ====
section
/-! DEFINITION. One arm per instruction: the meaning it has. -/

namespace Sys2Proof.Machine
open Sys2Proof

def exec (i : Instr) (s : State) : Host.Outcome State Fault Refusal :=
  match i with
  | .encode cmd payload => Sys2Proof.Machine.execEncode cmd payload s
  | .send cmd payload => Sys2Proof.Machine.execSend cmd payload s
  | .reset => Sys2Proof.Machine.execReset s
  | .wake => Sys2Proof.Machine.execWake s
  | .frame cmd payload => Sys2Proof.Machine.execFrame cmd payload s
  | .clear => Sys2Proof.Machine.execClear s
  | .update => Sys2Proof.Machine.execUpdate s
  | .setColor args => Sys2Proof.Machine.execSetColor args s
  | .drawPixel a b => Sys2Proof.Machine.execDrawPixel a b s
  | .drawLine args => Sys2Proof.Machine.execDrawLine args s
  | .fillRect args => Sys2Proof.Machine.execFillRect args s
  | .drawCircle args => Sys2Proof.Machine.execDrawCircle args s
  | .fillCircle args => Sys2Proof.Machine.execFillCircle args s
  | .drawTriangle args => Sys2Proof.Machine.execDrawTriangle args s
  | .fillTriangle args => Sys2Proof.Machine.execFillTriangle args s
  | .text args chars => Sys2Proof.Machine.execText args chars s
  | .drawBitmap args name => Sys2Proof.Machine.execDrawBitmap args name s
  | .setMemoryMode args => Sys2Proof.Machine.execSetMemoryMode args s
  | .setRotation args => Sys2Proof.Machine.execSetRotation args s
  | .setFont args => Sys2Proof.Machine.execSetFont args s
  | .sleep => Sys2Proof.Machine.execSleep s

end Sys2Proof.Machine
end

