-- ==== Sys2Proof/Machine/Fetch.lean ====
section
/-! DEFINITION. What the step does when the block is idle: take the request at the port, or wait for one (R36, R211). -/

namespace Sys2Proof.Machine

/-- The state when a request is accepted: it leaves the port (R36, R55), and no completion stands at the output. -/
def State.accept (s : State) (rest : List Words) : State := { s.noDone with requests := rest }

/-- Serve the port: decode the request there and execute it; with no request, wait (R211). -/
def serve (s : State) : Host.Outcome State Fault Refusal :=
  match s.requests with
  | [] => .next s.noDone
  | w :: rest =>
    match decode w with
    | .ok i => exec i (s.accept rest)
    | .error e => .refused (.undecodable e)

/-- Place words so that the next step serves them: nothing in flight, the words first at the port. -/
def State.present (s : State) (w : Words) : State :=
  { s with ph := .idle, frame := [], requests := w :: s.requests }

end Sys2Proof.Machine
end

