-- ==== Sys2Proof/Machine/Step.lean ====
section
/-! DEFINITION. One step of the block. -/

namespace Sys2Proof.Machine

/-- One step: go on with the pulse train or the frame in flight, the port waiting meanwhile (R53, R217); else serve the
port. -/
def step (s : State) : Host.Outcome State Fault Refusal :=
  if s.ph ≠ .idle then pulseStep s
  else if s.frame ≠ [] then .next s.flightStep
  else serve s

/-- `s` with the instruction of the opcode table's word `w` where the next step takes its instruction (log 13). -/
def State.withFetchWord (s : State) (nbits w : Nat) : State := s.present (tableWords nbits w)

end Sys2Proof.Machine
end

