-- ==== Sys2Proof/Safety.lean ====
section
/-! DEFINITION. The terms in which statements are made: what an operation must leave behind, written from the rules and not
from the meanings; the invariant of the block; and the observer of the event history. -/

namespace Sys2Proof.Safety
open Sys2Proof.Machine

/-! ## Runs -/

/-- `k` steps, stopping at the first refusal. -/
def runSteps : Nat → State → Host.Outcome State Fault Refusal
  | 0, s => .next s
  | k + 1, s =>
    match step s with
    | .next t => runSteps k t
    | .fault r => .fault r
    | .refused r => .refused r

/-! ## Operands -/

/-- The operands of a typed operation are within the ranges of R69 and R70. The block's own operations and FRAME take bytes,
which are always in range. -/
def OperandsFit : Instr → Prop
  | .encode _ _ => True
  | .send _ _ => True
  | .reset => True
  | .wake => True
  | .frame _ _ => True
  | .clear => True
  | .update => True
  | .setColor args => ∀ v ∈ args, v ≤ 65535
  | .drawPixel a b => a ≤ 65535 ∧ b ≤ 65535
  | .drawLine args => ∀ v ∈ args, v ≤ 65535
  | .fillRect args => ∀ v ∈ args, v ≤ 65535
  | .drawCircle args => ∀ v ∈ args, v ≤ 65535
  | .fillCircle args => ∀ v ∈ args, v ≤ 65535
  | .drawTriangle args => ∀ v ∈ args, v ≤ 65535
  | .fillTriangle args => ∀ v ∈ args, v ≤ 65535
  | .text args chars => (∀ v ∈ args, v ≤ 65535) ∧ ∀ u ∈ chars, u ≤ 255
  | .drawBitmap args name => (∀ v ∈ args, v ≤ 65535) ∧ ∀ u ∈ name, u ≤ 255
  | .setMemoryMode args => ∀ v ∈ args, v ≤ 65535
  | .setRotation args => ∀ v ∈ args, v ≤ 65535
  | .setFont args => ∀ v ∈ args, v ≤ 65535
  | .sleep => True

/-- The sixteen typed operations (R80). -/
def isTyped : Instr → Bool
  | .encode _ _ => false
  | .send _ _ => false
  | .reset => false
  | .wake => false
  | .frame _ _ => false
  | .clear => true
  | .update => true
  | .setColor _ => true
  | .drawPixel _ _ => true
  | .drawLine _ => true
  | .fillRect _ => true
  | .drawCircle _ => true
  | .fillCircle _ => true
  | .drawTriangle _ => true
  | .fillTriangle _ => true
  | .text _ _ => true
  | .drawBitmap _ _ => true
  | .setMemoryMode _ => true
  | .setRotation _ => true
  | .setFont _ => true
  | .sleep => true

/-! ## Idle states -/

/-- The block is idle, with the sequencing state as every completed operation leaves it (R26; the hold counter: log 6). -/
def Idle (s : State) : Prop := s.ph = .idle ∧ s.frame = [] ∧ s.bi = 0 ∧ s.tick = 0

/-- The block is idle, with the ports of R36 as every operation leaves them. -/
def PortIdle (s : State) : Prop := Idle s ∧ s.stream = [] ∧ s.dest = .transport ∧ s.waited = 0

/-- The cycles the other side keeps the block waiting at the `k`-th transfer from `s` on (R36). -/
def waitAt (s : State) (k : Nat) : Nat := s.waits[k]?.getD (Config.portWait (s.transfers + k))

/-- The cycles that the next `m` transfers take: each its wait and the cycle of the transfer itself (R36). -/
def portCycles (m : Nat) (s : State) : Nat := ((List.range m).map (fun k => waitAt s k + 1)).sum

/-- `s` with the waits of `m` transfers used up. -/
def afterTransfers (m : Nat) (s : State) : State :=
  { s with waits := s.waits.drop m, transfers := s.transfers + m }

/-! ## What an operation leaves behind -/

/-- `s` with a completion at the output and nothing else changed (R27, R187). -/
def ended (s : State) (status : Status) (frame : Option (List Byte)) : State :=
  { s with done := some ⟨status, frame⟩, results := s.results ++ [⟨status, frame⟩] }

/-- ENCODE accepts exactly these operands (R91, R92). -/
def Accepted (cmd : Byte) (pl : List Byte) : Prop := Config.inCmdSet cmd = true ∧ pl.length ≤ 503

/-- What an ENCODE leaves (R90, R91, R92, R186): the frame of the offset map of R51, or the error that comes first. -/
def encodePost (cmd : Byte) (pl : List Byte) (s : State) : State :=
  if Config.inCmdSet cmd = false then ended s (.invalidCommand cmd) none
  else if 503 < pl.length then ended s (.payloadTooLarge pl.length) none
  else ended s .ok (some (frameWords cmd pl))

/-- The status of a written frame: success is exactly a count of its length (R112). -/
def writeStatus (pl : List Byte) (answer : TxAnswer) : Status :=
  if answer = .written (pl.length + 9) then .ok else .transportError answer

/-- What a SEND leaves (R110 to R113): an input error leaves only its completion; otherwise one TxWrite of the whole frame
with the transport's answer, and a completion by that answer. -/
def sendPost (cmd : Byte) (pl : List Byte) (s : State) : State :=
  if Config.inCmdSet cmd = false then ended s (.invalidCommand cmd) none
  else if 503 < pl.length then ended s (.payloadTooLarge pl.length) none
  else
    ended { s with hist := s.hist ++ [.txWrite (frameWords cmd pl) s.nextAnswer], now := s.now + s.nextDelay,
                   delays := s.delays.tail, txAnswers := s.txAnswers.tail, draws := s.draws + 1 }
      (writeStatus pl s.nextAnswer) none

/-- The time the `k`-th collaborator call from `s` on takes beyond what is asked of it (R33, D28). -/
def delayAt (s : State) (k : Nat) : Nat := s.delays[k]?.getD (Config.extraTime (s.draws + k))

/-- The six events of a pulse train with holds `t1 t2 t3` (R125, R126, R127). -/
def pulseEvents (l : Line) (t1 t2 t3 : Nat) (s : State) : List Event :=
  [.gpioSet l .low, .sleep t1 (t1 + delayAt s 1), .gpioSet l .high, .sleep t2 (t2 + delayAt s 3), .gpioSet l .low,
   .sleep t3 (t3 + delayAt s 5)]

/-- The time a pulse train takes: its three holds and what the six calls take beyond that. -/
def pulseTime (t1 t2 t3 : Nat) (s : State) : Nat :=
  t1 + t2 + t3 + (delayAt s 0 + delayAt s 1 + delayAt s 2 + delayAt s 3 + delayAt s 4 + delayAt s 5)

/-- The idle, whole-operation states in which the statements of an instruction's result are made. -/
def Ready (s : State) : Prop := s.ph = .idle ∧ s.frame = [] ∧ s.realisation = .transaction

/-- What a pulse train on RESET or WAKE leaves, but for the levels of the two lines and for `ln`, which the spec does not
care about once the block is idle (R132): the six events, the time, one OK completion, and nothing else. -/
def PulseRest (l : Line) (t1 t2 t3 : Nat) (s t : State) : Prop :=
  t.hist = s.hist ++ pulseEvents l t1 t2 t3 s ∧ t.now = s.now + pulseTime t1 t2 t3 s ∧
  t.done = some ⟨.ok, none⟩ ∧ t.results = s.results ++ [⟨.ok, none⟩] ∧
  t.ph = s.ph ∧ t.bi = s.bi ∧ t.frame = s.frame ∧ t.tick = s.tick ∧ t.holds = s.holds ∧
  t.realisation = s.realisation ∧ t.requests = s.requests ∧ t.txAnswers = s.txAnswers ∧
  t.delays = s.delays.drop 6 ∧ t.draws = s.draws + 6 ∧ t.stream = s.stream ∧ t.dest = s.dest ∧ t.waits = s.waits ∧
  t.waited = s.waited ∧ t.transfers = s.transfers

/-! ## The tick-count realisation -/

/-- The holds of a pulse train on the active line with the rows of R132 around them: the phase that drives the level, the
phase that holds it, the phase after it, the level, and the duration asked for. -/
def holdRows (s : State) : List (Phase × Phase × Phase × Level × Nat) :=
  [(.drive1, .hold1, .drive2, .low, s.holds.t1 s.ln), (.drive2, .hold2, .drive3, .high, s.holds.t2 s.ln),
   (.drive3, .hold3, .idle, .low, s.holds.t3 s.ln)]

/-- The steps a counted pulse train takes: its three drives and one step for each period of its three holds (R132, R133). -/
def clockedSteps (l : Line) (h : Holds) : Nat := 3 + periods (h.t1 l) + periods (h.t2 l) + periods (h.t3 l)

/-- What a counted pulse train leaves, but for the levels of the two lines and for `ln`: the six events, each hold elapsed
for its whole periods, one OK completion, and nothing else. -/
def ClockedRest (l : Line) (s t : State) : Prop :=
  t.hist = s.hist ++
    [.gpioSet l .low, .sleep (s.holds.t1 l) (heldFor (s.holds.t1 l)), .gpioSet l .high,
     .sleep (s.holds.t2 l) (heldFor (s.holds.t2 l)), .gpioSet l .low, .sleep (s.holds.t3 l) (heldFor (s.holds.t3 l))] ∧
  t.now = s.now + (heldFor (s.holds.t1 l) + heldFor (s.holds.t2 l) + heldFor (s.holds.t3 l)) ∧
  t.done = some ⟨.ok, none⟩ ∧ t.results = s.results ++ [⟨.ok, none⟩] ∧
  t.ph = s.ph ∧ t.bi = s.bi ∧ t.frame = s.frame ∧ t.tick = s.tick ∧ t.holds = s.holds ∧
  t.realisation = s.realisation ∧ t.requests = s.requests ∧ t.txAnswers = s.txAnswers ∧
  t.delays = s.delays ∧ t.draws = s.draws ∧ t.stream = s.stream ∧ t.dest = s.dest ∧ t.waits = s.waits ∧
  t.waited = s.waited ∧ t.transfers = s.transfers

/-! ## The observer of the history -/

/-- What an observer of the history knows: between two operations, or how far a pulse train on a line has come. -/
inductive Progress where
  | between
  | driven1 (l : Line)
  | held1 (l : Line)
  | driven2 (l : Line)
  | held2 (l : Line)
  | driven3 (l : Line)
  deriving DecidableEq, Repr

/-- A receiver's check of a byte sequence: a frame in order, with a command of CMD_SET (R60, R63, R68). -/
def isFrame (bytes : List Byte) : Bool :=
  match decodeFrame bytes with
  | .ok (.frame cmd _) => Config.inCmdSet cmd
  | .ok .clear => true
  | _ => false

/-- The one event the observer accepts next, and what it then knows. Between operations: a TxWrite of a frame, or the first
falling edge of a pulse train. In a train: its line's next level or hold, each hold asked for at least its documented
minimum and elapsed for at least what was asked (R111, R127, R128). -/
def follow : Progress → Event → Option Progress
  | .between, .txWrite bytes _ => if isFrame bytes then some .between else none
  | .between, .gpioSet l .low => some (.driven1 l)
  | .driven1 l, .sleep d e => if minT1 l ≤ d ∧ d ≤ e then some (.held1 l) else none
  | .held1 l, .gpioSet m .high => if m = l then some (.driven2 l) else none
  | .driven2 l, .sleep d e => if minT2 l ≤ d ∧ d ≤ e then some (.held2 l) else none
  | .held2 l, .gpioSet m .low => if m = l then some (.driven3 l) else none
  | .driven3 l, .sleep d e => if minT3 l ≤ d ∧ d ≤ e then some .between else none
  | _, _ => none

/-- The observer over a whole history; `none` once an event is out of order. -/
def followAll (h : List Event) : Option Progress :=
  h.foldl (fun p ev => p.bind (fun q => follow q ev)) (some .between)

/-- How far the observer must be at each phase of R132. -/
def progressOf (ph : Phase) (l : Line) : Progress :=
  match ph with
  | .idle => .between
  | .drive1 => .between
  | .hold1 => .driven1 l
  | .drive2 => .held1 l
  | .hold2 => .driven2 l
  | .drive3 => .held2 l
  | .hold3 => .driven3 l

/-- The levels driven onto one line, in order. -/
def levelsOn (l : Line) (h : List Event) : List Level :=
  h.filterMap fun ev =>
    match ev with
    | .gpioSet m v => if m = l then some v else none
    | .sleep _ _ => none
    | .txWrite _ _ => none

/-! ## The invariant -/

/-- N(T) of the hold the block is in (R133), zero outside holds (log 6). -/
def periodsOfHold (s : State) : Nat :=
  match s.ph with
  | .hold1 => periods (s.holds.t1 s.ln)
  | .hold2 => periods (s.holds.t2 s.ln)
  | .hold3 => periods (s.holds.t3 s.ln)
  | .idle => 0
  | .drive1 => 0
  | .drive2 => 0
  | .drive3 => 0

/-- The most the hold counter can hold: N(T) of the hold in progress where the block counts it (R133), else zero (log 6). -/
def counterBound (s : State) : Nat := if s.realisation.counted then periodsOfHold s else 0

/-- The frame in flight, with the payload bytes still to arrive (R36). -/
def wholeFrame (s : State) : List Byte := if s.stream = [] then s.frame else sealFrame (s.frame ++ s.stream)

/-- What holds of the block at every step. -/
structure BlockInv (s : State) : Prop where
  /-- One operation in flight at a time: no SEND during a pulse train (R52, R53). -/
  oneInFlight : s.ph ≠ .idle → s.frame = []
  /-- The byte index stays within the frame, and is 0 when no frame is in flight (R26). -/
  byteIndex : s.bi ≤ s.frame.length
  /-- The bytes in flight are a frame, or become one with the payload bytes still to arrive (R29, R111), and so at most 512. -/
  frameInOrder : s.frame ≠ [] → isFrame (wholeFrame s) = true
  /-- Payload bytes are awaited only for a frame in flight at the ports (R36), and before any of its bytes leaves (R223). -/
  awaited : s.stream ≠ [] → s.realisation = .ported ∧ s.frame ≠ [] ∧ s.bi = 0
  /-- A frame for the caller is in flight at the ports and has a byte still to hand over (R36). -/
  forCaller : s.dest = .caller → s.realisation = .ported ∧ s.bi < s.frame.length
  /-- The block waits at a port only with a frame in flight there, and no longer than the other side makes it (R36). -/
  waiting : s.waited ≤ s.nextWait ∧ (s.waited ≠ 0 → s.realisation = .ported ∧ s.frame ≠ [])
  /-- A pulse train in flight has legal holds (R9, R128). -/
  legalHolds : s.ph ≠ .idle → s.holds.legal s.ln = true
  /-- The hold counter stays within N(T) and has not run out while the hold lasts (R133); it is zero otherwise
  (log 6). -/
  counter : s.tick ≤ counterBound s ∧ (0 < counterBound s → 0 < s.tick)
  /-- A line is high exactly in hold 2 of a pulse train on it, from the rising edge to the falling one (R137). -/
  highOnlyInHold2 : ∀ l, s.line l = some .high ↔ l = s.ln ∧ (s.ph = .hold2 ∨ s.ph = .drive3)
  /-- A line keeps the level last driven onto it; it is undriven before the first (R23, R34). -/
  lastDriven : ∀ l, s.line l = (levelsOn l s.hist).getLast?
  /-- The history is whole operations, and the calls so far of the pulse train in flight (R52, R111, R127, R128). -/
  historyInOrder : followAll s.hist = some (progressOf s.ph s.ln)

end Sys2Proof.Safety
end

