-- ==== Sys2Proof/WellFormed.lean ====
section
/-! DEFINITION. Which instructions are well formed: every operand within the range the spec gives it, and in the one form
in which its words show it. -/

namespace Sys2Proof

/-- A payload that the request port can carry: req_len has 16 bits (10_state.md R36), and a payload of no bytes is an absent
one there ("absent counts as empty", R36), so `some []` is no form of its own. A longer payload
has its meaning in `exec` but no words at the port (log 13). -/
def wellFormedPayload : Option (List Byte) → Bool
  | none => true
  | some pl => !pl.isEmpty && decide (pl.length < 65536)

/-- Every numeric argument fits 16 bits (30_encoding.md R69). -/
def wellFormedArgs (args : List Nat) : Bool := args.all (fun v => decide (v ≤ 65535))

/-- Every character is a Latin-1 code point (30_encoding.md R70). -/
def wellFormedChars (chars : List Nat) : Bool := chars.all (fun u => decide (u ≤ 255))

/-- Well-formed instructions. A FRAME row carries 0 to 503 payload bytes and a member of CMD_SET (R63, R67); the frame of
0x2E with no payload is the row `clear` (R154). -/
def WellFormed : Instr → Bool
  | .encode _ pl => wellFormedPayload pl
  | .send _ pl => wellFormedPayload pl
  | .reset => true
  | .wake => true
  | .frame c pl =>
    decide (pl.length ≤ Config.maxPayload) && Config.inCmdSet c && !(c == Config.cmdClear && pl.isEmpty)
  | .clear => true
  | .update => true
  | .setColor args => wellFormedArgs args
  | .drawPixel a b => wellFormedArgs [a, b]
  | .drawLine args => wellFormedArgs args
  | .fillRect args => wellFormedArgs args
  | .drawCircle args => wellFormedArgs args
  | .fillCircle args => wellFormedArgs args
  | .drawTriangle args => wellFormedArgs args
  | .fillTriangle args => wellFormedArgs args
  | .text args chars => wellFormedArgs args && wellFormedChars chars
  | .drawBitmap args name => wellFormedArgs args && wellFormedChars name
  | .setMemoryMode args => wellFormedArgs args
  | .setRotation args => wellFormedArgs args
  | .setFont args => wellFormedArgs args
  | .sleep => true

end Sys2Proof
end

