-- ==== Sys2Proof/Certificates/Slice0/Obligations.lean ====
section
/-! DEFINITION. The statements about the block, from the numbered rules of the spec. -/

open Sys2Proof Sys2Proof.Machine Sys2Proof.Safety

/-! ## The frame encoder (30_encoding.md, 40_frame_encoder.md) -/

/-- R91, R92; 95 LAWS 1: a frame exists exactly for a command of CMD_SET and at most 503 payload bytes. -/
def Obligations.EncoderAcceptsExactly : Prop :=
  ∀ cmd pl, (∃ bytes, encodeFrame cmd pl = .ok bytes) ↔ Config.inCmdSet cmd = true ∧ pl.length ≤ 503

/-- R51: every byte of a frame by its offset. -/
def Obligations.FrameByteMap : Prop :=
  ∀ cmd pl bytes, encodeFrame cmd pl = .ok bytes →
    bytes.length = pl.length + 9 ∧ bytes[0]? = some 0xA5 ∧ bytes[1]? = some (hi8 (pl.length + 9)) ∧
    bytes[2]? = some (lo8 (pl.length + 9)) ∧ bytes[3]? = some cmd ∧ (bytes.drop 4).take pl.length = pl ∧
    bytes[4 + pl.length]? = some 0xCC ∧ bytes[5 + pl.length]? = some 0x33 ∧ bytes[6 + pl.length]? = some 0xC3 ∧
    bytes[7 + pl.length]? = some 0x3C ∧ bytes[8 + pl.length]? = some (xorFold (bytes.take (8 + pl.length)))

/-- R77: the XOR of all bytes of a frame is zero; its last byte is the XOR of the bytes before it. -/
def Obligations.FrameXorIsZero : Prop :=
  ∀ cmd pl bytes, encodeFrame cmd pl = .ok bytes →
    xorFold bytes = 0 ∧ bytes.getLast? = some (xorFold bytes.dropLast)

/-- R62, R67, R99, R104 item 2: LEN as sent is the frame's length, 9 to 512, and it fits its 16 bits. -/
def Obligations.LengthFieldIsLength : Prop :=
  ∀ cmd pl bytes, encodeFrame cmd pl = .ok bytes →
    ∃ hi lo, bytes[1]? = some hi ∧ bytes[2]? = some lo ∧ fromBe16 hi lo = bytes.length ∧
      9 ≤ bytes.length ∧ bytes.length ≤ 512 ∧ bytes.length = 3 + 1 + pl.length + 4 + 1

/-- R78: the operands can be read back from the frame, so the encoder is injective. -/
def Obligations.EncoderIsInjective : Prop :=
  ∀ cmd pl bytes, encodeFrame cmd pl = .ok bytes →
    bytes[3]? = some cmd ∧ (bytes.take (bytes.length - 5)).drop 4 = pl ∧
    ∀ cmd' pl', encodeFrame cmd' pl' = .ok bytes → cmd' = cmd ∧ pl' = pl

/-- R76: the trailer bytes XOR to zero, so the checksum is the XOR of the other fields; for no payload it is 0xAC xor cmd. -/
def Obligations.ChecksumFromFields : Prop :=
  (0xCC ^^^ 0x33 : Byte) = 0xFF ∧ (0xC3 ^^^ 0x3C : Byte) = 0xFF ∧ (0xFF ^^^ 0xFF : Byte) = 0x00 ∧
  ∀ cmd pl bytes, encodeFrame cmd pl = .ok bytes →
    bytes.getLast? = some (0xA5 ^^^ hi8 (pl.length + 9) ^^^ lo8 (pl.length + 9) ^^^ cmd ^^^ xorFold pl) ∧
    (pl = [] → bytes.getLast? = some (0xAC ^^^ cmd))

/-- R71, R72, R186: no choice of CMD_SET holds a value above 0x70, such a command is InvalidCommand whatever the payload's
length, and 0x2E is a command for every choice. -/
def Obligations.CommandCheckComesFirst : Prop :=
  (∀ cmd pl, 0x70 < cmd.toNat → encodeFrame cmd pl = .error (.invalidCommand cmd)) ∧
  (∀ pl, pl.length ≤ 503 → ∃ bytes, encodeFrame 0x2E pl = .ok bytes) ∧
  (∀ pl, 503 < pl.length → encodeFrame 0x2E pl = .error (.payloadTooLarge pl.length))

/-- R43, R69: a numeric argument stands in the frame as two bytes, the high one first, after those of the arguments before
it, and reading the two back gives the argument. -/
def Obligations.FieldReadsBack : Prop :=
  ∀ cmd (args : List Nat) bytes j v, encodeFrame cmd (args.flatMap be16) = .ok bytes → args[j]? = some v → v ≤ 65535 →
    bytes[4 + 2 * j]? = some (hi8 v) ∧ bytes[5 + 2 * j]? = some (lo8 v) ∧ fromBe16 (hi8 v) (lo8 v) = v

/-! ## ENCODE -/

/-- R90, R91, R92, R101, R187: an idle block completes an ENCODE at once, with the frame of the offset map of R51 or the
first error that applies, and nothing but the completion changes; an absent payload is the empty one, in every state. At the
ports of R36 an ENCODE takes its cycles: PortedEncodeAgrees. -/
def Obligations.EncodeResult : Prop :=
  (∀ cmd payload s, s.ph = .idle → s.frame = [] → s.realisation ≠ .ported →
    exec (.encode cmd payload) s = .next (encodePost cmd (payload.getD []) s)) ∧
  ∀ cmd s, exec (.encode cmd none) s = exec (.encode cmd (some [])) s

/-- R98: ENCODE is a total function of its operands to a frame or one of two errors: one completion for every idle state, with
no side effect and no draw from the environment. At the ports of R36 it is the same completion, however long the other side
keeps the block waiting; that it comes with the last of `2n + 9` transfers is the model's choice (log 23). -/
def Obligations.EncodeReadsNoState : Prop :=
  ∀ cmd payload, ∃ c : Completion,
    ((∃ bytes, c = ⟨.ok, some bytes⟩) ∨ c = ⟨.invalidCommand cmd, none⟩ ∨
      c = ⟨.payloadTooLarge (payload.getD []).length, none⟩) ∧
    (∀ s, s.ph = .idle → s.frame = [] → s.realisation ≠ .ported →
      exec (.encode cmd payload) s = .next { s with done := some c, results := s.results ++ [c] }) ∧
    ∀ s, PortIdle s → s.realisation = .ported →
      ∃ t, exec (.encode cmd payload) s = .next t ∧
        (c.status ≠ .ok → t = { s with done := some c, results := s.results ++ [c] }) ∧
        (c.status = .ok →
          runSteps (portCycles (2 * (payload.getD []).length + 9) s) t =
            .next (afterTransfers (2 * (payload.getD []).length + 9)
              { s with done := some c, results := s.results ++ [c] }))

/-! ## Decoding and encoding -/

/-- R51, R60, R75, R80: decoding the words of a well-formed instruction gives it back. That a typed operation but `clear` is
held as a call by its name is the model's choice (log 12). -/
def Obligations.DecodeAfterEncode : Prop :=
  ∀ i, WellFormed i = true → decode (encode i) = .ok i

/-- R51, R78: the decoder reads the operands out of every frame the encoder produces. That 0x2E with no payload is read as
`clear` and everything else as FRAME is the model's choice (log 11). -/
def Obligations.ProducedFrameDecodes : Prop :=
  ∀ cmd pl bytes, encodeFrame cmd pl = .ok bytes →
    decode (.frame bytes) = .ok (if cmd = 0x2E ∧ pl = [] then .clear else .frame cmd pl)

/-- R51, R61 to R68: a byte sequence that decodes is byte for byte the frame of what it decodes to; every other sequence is
refused. That a byte sequence is decoded at all, as clear or FRAME, is the model's choice (log 11). -/
def Obligations.DecodedFrameIsExact : Prop :=
  ∀ bytes i, decode (.frame bytes) = .ok i →
    ∃ cmd pl, sendOperands i = some (cmd, pl) ∧ bytes = frameWords cmd pl ∧ pl.length ≤ 503

/-- R36, R75, R101: the four codes of req_op; RESET and WAKE ignore the other inputs. That ENCODE and SEND with req_len 0 and no
byte in the stream decode to the absent payload, not to the empty one, is the model's choice (log 13). -/
def Obligations.RequestCodes : Prop :=
  ∀ (cmd : Byte) (len : Word16) (stream : List Byte),
    (stream.length = len.toNat → stream ≠ [] →
      decode (.request 0b00 cmd len stream) = .ok (.encode cmd (some stream)) ∧
      decode (.request 0b01 cmd len stream) = .ok (.send cmd (some stream))) ∧
    decode (.request 0b00 cmd 0 []) = .ok (.encode cmd none) ∧
    decode (.request 0b01 cmd 0 []) = .ok (.send cmd none) ∧
    decode (.request 0b10 cmd len stream) = .ok .reset ∧
    decode (.request 0b11 cmd len stream) = .ok .wake

/-- R75, R154: words of the opcode table and of 95_test_vectors.md V50 and V7 decode to what they stand for. That a word of one
byte is read with every other input zero, so as ENCODE and SEND of command 0 with no payload, and the order of the bytes in a
longer word are the model's choice (log 13); so is the reading of a frame as FRAME (log 11). -/
def Obligations.TableWordsDecode : Prop :=
  decodeTableWord 8 0 = some (.encode 0 none) ∧ decodeTableWord 8 1 = some (.send 0 none) ∧
  decodeTableWord 8 2 = some .reset ∧ decodeTableWord 8 3 = some .wake ∧
  decodeTableWord 72 0xA500092ECC33C33C82 = some .clear ∧
  decodeTableWord 80 0xA5000A2E81CC33C33C00 = some (.frame 0x2E [0x81])

/-! ## The step -/

/-- R36, R52, R55: an idle block whose port shows words that decode runs exactly their instruction; the step around it takes
the words from the port and clears the completion output. That the requests still to come are a list is the model's choice
(log 1). -/
def Obligations.StepRunsDecoded : Prop :=
  ∀ s w rest i, s.ph = .idle → s.frame = [] → s.requests = w :: rest → decode w = .ok i →
    step s = exec i { s with requests := rest, done := none }

/-- R211: with no request an idle block waits; only the completion output, which is not latched (R27), changes. -/
def Obligations.StepWaitsForRequest : Prop :=
  ∀ s, s.ph = .idle → s.frame = [] → s.requests = [] → step s = .next { s with done := none }

/-- R53, R217: while an operation is in flight the port is not served: no request is taken or dropped. -/
def Obligations.BusyStepLeavesPort : Prop :=
  ∀ s t, s.ph ≠ .idle ∨ s.frame ≠ [] → step s = .next t → t.requests = s.requests

/-- R217 and 93 entry U2: no instruction starts on a busy block; the block's own operations are refused as busy. -/
def Obligations.BusyStartsNothing : Prop :=
  ∀ s, s.ph ≠ .idle ∨ s.frame ≠ [] →
    (∀ i t, exec i s ≠ .next t) ∧
    (∀ cmd payload, exec (.encode cmd payload) s = .refused .busy ∧ exec (.send cmd payload) s = .refused .busy) ∧
    exec .reset s = .refused .busy ∧ exec .wake s = .refused .busy

/-! ## SEND and the instructions that expand to it -/

/-- R111 to R113: a SEND run whole makes one TxWrite of the whole frame and ends by the transport's answer, or ends with the
encoder's error and makes none; nothing else changes. -/
def Obligations.SendResult : Prop :=
  ∀ cmd payload s, Ready s → exec (.send cmd payload) s = .next (sendPost cmd (payload.getD []) s)

/-- R60, R78: FRAME, run whole, puts its image on the link. That it is the SEND of its two fields is the model's choice
(log 11). -/
def Obligations.FrameResult : Prop :=
  ∀ cmd pl s, Ready s → exec (.frame cmd pl) s = .next (sendPost cmd pl s)

/-- R112: a SEND completes OK exactly when its operands pass both checks and the transport's answer is Written(L). -/
def Obligations.SendOkIffWhole : Prop :=
  ∀ cmd payload s, Ready s →
    ∃ t, exec (.send cmd payload) s = .next t ∧
      (t.done = some ⟨.ok, none⟩ ↔
        Accepted cmd (payload.getD []) ∧ s.nextAnswer = .written ((payload.getD []).length + 9))

/-- R154: `clear` writes the nine constant bytes; its only error is TransportError. -/
def Obligations.ClearResult : Prop :=
  ∀ s, Ready s →
    exec .clear s = .next (ended
      { s with hist := s.hist ++ [.txWrite [0xA5, 0x00, 0x09, 0x2E, 0xCC, 0x33, 0xC3, 0x3C, 0x82] s.nextAnswer],
               now := s.now + s.nextDelay, delays := s.delays.tail, txAnswers := s.txAnswers.tail, draws := s.draws + 1 }
      (if s.nextAnswer = .written 9 then .ok else .transportError s.nextAnswer) none)

/-- R155, R169: `update` and `sleep` are SENDs of their command and their open payload. The spec leaves both values open and the
model leaves them free (logs 9, 10). -/
def Obligations.UpdateSleepResult : Prop :=
  ∀ s, Ready s →
    exec .update s = .next (sendPost Config.cmdUpdate Config.updatePayload s) ∧
    exec .sleep s = .next (sendPost Config.cmdSleep Config.sleepPayload s)

/-- R157: `draw_pixel(a, b)` sends the four bytes of two 16-bit fields, high byte first, under CMD_DRAW_PIXEL; the frame has
LEN = 0x000D. An argument above 65535 is refused. -/
def Obligations.DrawPixelResult : Prop :=
  ∀ a b s,
    (a ≤ 65535 → b ≤ 65535 → Ready s →
      exec (.drawPixel a b) s =
        .next (ended
          { s with hist := s.hist ++ [.txWrite
                     [0xA5, 0x00, 0x0D, Config.cmdDrawPixel, hi8 a, lo8 a, hi8 b, lo8 b, 0xCC, 0x33, 0xC3, 0x3C,
                      0xA8 ^^^ Config.cmdDrawPixel ^^^ hi8 a ^^^ lo8 a ^^^ hi8 b ^^^ lo8 b] s.nextAnswer],
                   now := s.now + s.nextDelay, delays := s.delays.tail, txAnswers := s.txAnswers.tail,
                   draws := s.draws + 1 }
          (if s.nextAnswer = .written 13 then .ok else .transportError s.nextAnswer) none)) ∧
    (65535 < a ∨ 65535 < b → exec (.drawPixel a b) s = .refused .argumentTooWide)

/-- R158 to R163: the six other drawing operations send be16 of each argument in order. -/
def Obligations.DrawingResult : Prop :=
  ∀ (args : List Nat) s, (∀ v ∈ args, v ≤ 65535) → Ready s →
    exec (.drawLine args) s = .next (sendPost Config.cmdDrawLine (args.flatMap be16) s) ∧
    exec (.fillRect args) s = .next (sendPost Config.cmdFillRect (args.flatMap be16) s) ∧
    exec (.drawCircle args) s = .next (sendPost Config.cmdDrawCircle (args.flatMap be16) s) ∧
    exec (.fillCircle args) s = .next (sendPost Config.cmdFillCircle (args.flatMap be16) s) ∧
    exec (.drawTriangle args) s = .next (sendPost Config.cmdDrawTriangle (args.flatMap be16) s) ∧
    exec (.fillTriangle args) s = .next (sendPost Config.cmdFillTriangle (args.flatMap be16) s)

/-- R70, R164, R165: `text` and `draw_bitmap` send be16 of the numeric arguments and one byte per character, no terminator.
That the numbers stand before the characters is the model's reading of the two expansions (log 17): the source does not give
the order. -/
def Obligations.TextBitmapResult : Prop :=
  ∀ (args chars : List Nat) s, (∀ v ∈ args, v ≤ 65535) → (∀ u ∈ chars, u ≤ 255) → Ready s →
    exec (.text args chars) s =
      .next (sendPost Config.cmdText (args.flatMap be16 ++ chars.map (BitVec.ofNat 8)) s) ∧
    exec (.drawBitmap args chars) s =
      .next (sendPost Config.cmdDrawBitmap (args.flatMap be16 ++ chars.map (BitVec.ofNat 8)) s)

/-- R156, R166, R167, R168: the four setters are SENDs of their command and their open payload. The spec leaves both open and the
model leaves them free (logs 9, 10). -/
def Obligations.SettersResult : Prop :=
  ∀ (args : List Nat) s, (∀ v ∈ args, v ≤ 65535) → Ready s →
    exec (.setColor args) s = .next (sendPost Config.cmdSetColor (Config.setColorPayload args) s) ∧
    exec (.setMemoryMode args) s = .next (sendPost Config.cmdSetMemoryMode (Config.setMemoryModePayload args) s) ∧
    exec (.setRotation args) s = .next (sendPost Config.cmdSetRotation (Config.setRotationPayload args) s) ∧
    exec (.setFont args) s = .next (sendPost Config.cmdSetFont (Config.setFontPayload args) s)

/-- R150: a typed operation with operands in range is the SEND of its fixed pair, in every state and realisation. The statement
takes in SEND itself and FRAME; that FRAME is the SEND of its two fields is the model's reading (log 11). -/
def Obligations.TypedIsSend : Prop :=
  ∀ i cmd pl s, OperandsFit i → sendOperands i = some (cmd, pl) → exec i s = exec (.send cmd (some pl)) s

/-- R152: CMD_<OP> is a member of CMD_SET, so a typed operation never ends in InvalidCommand. -/
def Obligations.TypedNeverInvalidCommand : Prop :=
  ∀ i cmd pl, isTyped i = true → sendOperands i = some (cmd, pl) →
    Config.inCmdSet cmd = true ∧
    ∀ s t c, exec i s = .next t → t.done ≠ some ⟨.invalidCommand c, none⟩

/-- R69, R70 (D15, D16; 93 entry U16): a numeric argument above 65535 or a character above 255 is refused at the typed layer,
with no SEND. That the range check also covers the operations with an open layout is the model's choice (log 20). -/
def Obligations.TypedOperandsRefused : Prop :=
  (∀ i s t, ¬ OperandsFit i → exec i s ≠ .next t) ∧
  (∀ args s, (∃ v ∈ args, 65535 < v) →
    exec (.drawLine args) s = .refused .argumentTooWide ∧ exec (.setColor args) s = .refused .argumentTooWide) ∧
  (∀ args chars s, (∀ v ∈ args, v ≤ 65535) → (∃ u ∈ chars, 255 < u) →
    exec (.text args chars) s = .refused .characterNotLatin1 ∧
    exec (.drawBitmap args chars) s = .refused .characterNotLatin1)

/-- R22, R111, R113, R117: whatever an instruction that expands to SEND does in one `exec`, it touches no line and no
sequencing state of the pulse sequencer, and adds to the history nothing or one TxWrite of its whole frame. That FRAME is
among these instructions is the model's reading (log 11). -/
def Obligations.SendTouchesNoLine : Prop :=
  ∀ i cmd pl s t, sendOperands i = some (cmd, pl) → exec i s = .next t →
    t.resetLine = s.resetLine ∧ t.wakeLine = s.wakeLine ∧ t.ph = s.ph ∧ t.ln = s.ln ∧ t.tick = s.tick ∧
    t.holds = s.holds ∧ t.requests = s.requests ∧
    (t.hist = s.hist ∨ t.hist = s.hist ++ [.txWrite (frameWords cmd pl) s.nextAnswer])

/-- R115: the bytes and the status of a SEND depend on its own operands and the transport's answer alone: two idle blocks with
any histories, lines and earlier errors append the same events and complete alike. -/
def Obligations.SendIsIndependent : Prop :=
  ∀ cmd payload s s', Ready s → Ready s' → s.nextAnswer = s'.nextAnswer →
    ∃ t t' evs, exec (.send cmd payload) s = .next t ∧ exec (.send cmd payload) s' = .next t' ∧
      t.hist = s.hist ++ evs ∧ t'.hist = s'.hist ++ evs ∧ t.done = t'.done

/-- R187: InvalidCommand and PayloadTooLarge leave every piece of state as before but for the completion; a TransportError
leaves one TxWrite in the history and, the ghost time and the inputs it used aside, nothing else. -/
def Obligations.ErrorsArePrecise : Prop :=
  ∀ i s t, Ready s → exec i s = .next t →
    (∀ c fr, t.done = some ⟨.invalidCommand c, fr⟩ → t = ended s (.invalidCommand c) none) ∧
    (∀ n fr, t.done = some ⟨.payloadTooLarge n, fr⟩ → t = ended s (.payloadTooLarge n) none) ∧
    (∀ a fr, t.done = some ⟨.transportError a, fr⟩ →
      ∃ bytes, t = ended { s with hist := s.hist ++ [.txWrite bytes a], now := t.now, delays := s.delays.tail,
                                  txAnswers := s.txAnswers.tail, draws := s.draws + 1 } (.transportError a) none)

/-- R26, R31, R111, R223: cut into bytes, an instruction that expands to SEND ends in the very state of the whole SEND: an
input error at once, else after its `n + 9` bytes and the write. That a byte takes one step, and that the write and the
transport's answer come in one more step after the last byte, are the model's choice (log 19), and FRAME as a SEND its reading
(log 11). -/
def Obligations.StepwiseSendAgrees : Prop :=
  ∀ i cmd pl s, OperandsFit i → sendOperands i = some (cmd, pl) → Idle s →
    s.realisation = .stepwise ∨ s.realisation = .clocked →
    ∃ t, exec i s = .next t ∧
      (Accepted cmd pl → runSteps (pl.length + 10) t = .next (sendPost cmd pl s)) ∧
      (¬ Accepted cmd pl → t = sendPost cmd pl s)

/-- R41: the bytes of a SEND in flight stand at the frame port in index order, the checksum last. That each stands there for one
step, counted by the byte index of R26, and that the history is unchanged until all are out, are the model's choice (log 19).
At the ports of R36 a byte stands there until the transport is ready: PortCycle. -/
def Obligations.BytesLeaveInOrder : Prop :=
  ∀ s k, s.ph = .idle → s.frame ≠ [] → s.bi = 0 → s.stream = [] → s.realisation ≠ .ported → k < s.frame.length →
    ∃ t, runSteps k s = .next t ∧ t.bi = k ∧ t.frame = s.frame ∧ t.hist = s.hist ∧ t.frmValid = true ∧
      t.frmData = s.frame[k]? ∧ (t.frmLast = true ↔ k + 1 = s.frame.length)

/-! ## The ports (10_state.md R36) -/

/-- R36: the cycles of an ENCODE or a SEND at the ports. While payload bytes are missing, pl_ready is up and each cycle with
pl_valid takes the next one, the last of them closing the frame; then the frame port shows the byte at the byte index, marks
the last one, and hands one over in each cycle with frm_ready; a cycle in which the other side is not ready changes nothing but
that it has passed. That all of the payload comes before any byte of the frame leaves is the model's choice (log 23). -/
def Obligations.PortCycle : Prop :=
  ∀ s, s.ph = .idle → s.frame ≠ [] → s.realisation = .ported →
    (s.sideReady = false → step s = .next s.waitCycle) ∧
    (∀ b rest, s.stream = b :: rest →
      s.plReady = true ∧ s.plData = some b ∧ s.plValid = s.sideReady ∧ s.frmValid = false ∧
      (s.plValid = true → ∃ t, step s = .next t ∧ t.stream = rest ∧ t.bi = s.bi ∧ t.dest = s.dest ∧ t.done = none ∧
        t.hist = s.hist ∧ t.frame = if rest = [] then sealFrame (s.frame ++ [b]) else s.frame ++ [b])) ∧
    (s.stream = [] → s.bi < s.frame.length →
      s.plReady = false ∧ s.frmValid = true ∧ s.frmReady = s.sideReady ∧ s.frmData = s.frame[s.bi]? ∧
      (s.frmLast = true ↔ s.bi + 1 = s.frame.length) ∧
      (s.frmReady = true → ¬ (s.dest = .caller ∧ s.frmLast = true) →
        step s = .next { s.transferCycle with bi := s.bi + 1 }) ∧
      (s.frmReady = true → s.dest = .caller → s.frmLast = true →
        ∃ t, step s = .next t ∧ t.done = some ⟨.ok, some s.frame⟩ ∧ t.frame = [] ∧ t.bi = 0 ∧ t.hist = s.hist))

/-- R36, R90, R101, R223: at the ports an ENCODE ends in the very state of the whole ENCODE, the waits it used aside: an input
error at once, else in the cycle in which the caller takes the last of the `n + 9` bytes, after the block took the `n` of the
payload, after however many cycles the caller made it wait. The order of the cycles is the model's choice (log 23). -/
def Obligations.PortedEncodeAgrees : Prop :=
  ∀ cmd payload s, PortIdle s → s.realisation = .ported →
    ∃ t, exec (.encode cmd payload) s = .next t ∧
      (Accepted cmd (payload.getD []) →
        runSteps (portCycles (2 * (payload.getD []).length + 9) s) t =
          .next (afterTransfers (2 * (payload.getD []).length + 9) (encodePost cmd (payload.getD []) s))) ∧
      (¬ Accepted cmd (payload.getD []) → t = encodePost cmd (payload.getD []) s)

/-- R36, R110 to R113, R223: at the ports an instruction that expands to SEND ends in the very state of the whole SEND, the
waits it used aside: an input error at once, else in the cycle in which the transport answers, after the `n` bytes of the
payload and the `n + 9` of the frame, after however many cycles of waiting. The order of the cycles is the model's choice (log 23), and
FRAME as a SEND its reading (log 11). -/
def Obligations.PortedSendAgrees : Prop :=
  ∀ i cmd pl s, OperandsFit i → sendOperands i = some (cmd, pl) → PortIdle s → s.realisation = .ported →
    ∃ t, exec i s = .next t ∧
      (Accepted cmd pl →
        runSteps (portCycles (2 * pl.length + 10) s) t = .next (afterTransfers (2 * pl.length + 10) (sendPost cmd pl s))) ∧
      (¬ Accepted cmd pl → t = sendPost cmd pl s)

/-! ## Completion -/

/-- R27, R36, R217: the completion of an operation in flight always comes, in every realisation, exactly once and at the step
at which the block is idle again, and the request held at the port is neither taken nor dropped until then; an accepted
instruction has completed at once or is in flight. That at the ports of R36 every wait ends is the model's reading of R217
(log 23); the list of completions is its field (log 18). -/
def Obligations.CompletionAlwaysComes : Prop :=
  (∀ s, BlockInv s → s.busy = true →
    ∃ k u c, runSteps k s = .next u ∧ u.busy = false ∧ u.done = some c ∧ u.results = s.results ++ [c] ∧
      ∀ j, j ≤ k → ∃ w, runSteps j s = .next w ∧ w.requests = s.requests ∧
        (j < k → w.busy = true ∧ w.results = s.results)) ∧
  ∀ i s t, exec i s = .next t →
    (t.busy = false ∧ ∃ c, t.done = some c ∧ t.results = s.results ++ [c]) ∨
    (t.busy = true ∧ t.done = none ∧ t.results = s.results)

/-! ## The pulse sequencer (42_pulse_sequencer.md) -/

/-- R125, R126, R127, R130, R131, R136: run whole, RESET and WAKE each make their six calls on their own line, levels 0, 1, 0
with their three holds, whatever the line's level before, and complete OK with the line at 0; the other line is not
touched. -/
def Obligations.PulseResult : Prop :=
  ∀ s, Ready s →
    (1000 ≤ s.holds.rstLow1 → 1000 ≤ s.holds.rstHigh → 2000000 ≤ s.holds.rstLow2 →
      ∃ t, exec .reset s = .next t ∧ t.resetLine = some .low ∧ t.wakeLine = s.wakeLine ∧
        PulseRest .reset s.holds.rstLow1 s.holds.rstHigh s.holds.rstLow2 s t) ∧
    (1000 ≤ s.holds.wakeLow1 → 1000 ≤ s.holds.wakeHigh → 10000 ≤ s.holds.wakeLow2 →
      ∃ t, exec .wake s = .next t ∧ t.wakeLine = some .low ∧ t.resetLine = s.resetLine ∧
        PulseRest .wake s.holds.wakeLow1 s.holds.wakeHigh s.holds.wakeLow2 s t)

/-- R128, R220: a RESET takes at least 2.002 s and a WAKE at least 12 ms, for every legal configuration, every draw and every
clock frequency, run whole, in the steps of R132, or with its holds counted by R133. -/
def Obligations.PulseTakesAtLeast : Prop :=
  (∀ s t, s.realisation = .transaction →
    (exec .reset s = .next t → s.now + 2002000 ≤ t.now) ∧ (exec .wake s = .next t → s.now + 12000 ≤ t.now)) ∧
  (∀ s t u, Idle s → s.realisation = .stepwise → runSteps 6 t = .next u →
    (exec .reset s = .next t → s.now + 2002000 ≤ u.now) ∧ (exec .wake s = .next t → s.now + 12000 ≤ u.now)) ∧
  ∀ s, Idle s → s.realisation.counted = true →
    (s.holds.legal .reset = true → ∃ t u, exec .reset s = .next t ∧
      runSteps (clockedSteps .reset s.holds) t = .next u ∧ s.now + 2002000 ≤ u.now) ∧
    (s.holds.legal .wake = true → ∃ t u, exec .wake s = .next t ∧
      runSteps (clockedSteps .wake s.holds) t = .next u ∧ s.now + 12000 ≤ u.now)

/-- R9 (93 entry U14): a hold of the line below its minimum is no legal configuration, and the pulse is refused; the other
line's holds do not matter. -/
def Obligations.IllegalHoldsRefused : Prop :=
  ∀ s, s.ph = .idle → s.frame = [] →
    (s.holds.rstLow1 < 1000 ∨ s.holds.rstHigh < 1000 ∨ s.holds.rstLow2 < 2000000 →
      exec .reset s = .refused .holdBelowMinimum) ∧
    (s.holds.wakeLow1 < 1000 ∨ s.holds.wakeHigh < 1000 ∨ s.holds.wakeLow2 < 10000 →
      exec .wake s = .refused .holdBelowMinimum)

/-- R132: the table of the phase machine, row by row, for a pulse train in flight with legal holds: the event of the step, the
level of its line, the next phase; row 6 completes OK. Where the block counts its holds, rows 2, 4 and 6 take a step for each
clock period: HoldCountsPeriods. -/
def Obligations.PhaseTable : Prop :=
  ∀ s, s.holds.legal s.ln = true →
    (s.ph = .drive1 → ∃ t, step s = .next t ∧ t.ph = .hold1 ∧ t.hist = s.hist ++ [.gpioSet s.ln .low] ∧
      t.line s.ln = some .low ∧ t.ln = s.ln ∧ t.done = none) ∧
    (s.ph = .hold1 → s.realisation.counted = false → ∃ t e, step s = .next t ∧ t.ph = .drive2 ∧
      t.hist = s.hist ++ [.sleep (s.holds.t1 s.ln) e] ∧
      s.holds.t1 s.ln ≤ e ∧ t.now = s.now + e ∧ t.line s.ln = s.line s.ln ∧ t.ln = s.ln ∧ t.done = none) ∧
    (s.ph = .drive2 → ∃ t, step s = .next t ∧ t.ph = .hold2 ∧ t.hist = s.hist ++ [.gpioSet s.ln .high] ∧
      t.line s.ln = some .high ∧ t.ln = s.ln ∧ t.done = none) ∧
    (s.ph = .hold2 → s.realisation.counted = false → ∃ t e, step s = .next t ∧ t.ph = .drive3 ∧
      t.hist = s.hist ++ [.sleep (s.holds.t2 s.ln) e] ∧
      s.holds.t2 s.ln ≤ e ∧ t.now = s.now + e ∧ t.line s.ln = s.line s.ln ∧ t.ln = s.ln ∧ t.done = none) ∧
    (s.ph = .drive3 → ∃ t, step s = .next t ∧ t.ph = .hold3 ∧ t.hist = s.hist ++ [.gpioSet s.ln .low] ∧
      t.line s.ln = some .low ∧ t.ln = s.ln ∧ t.done = none) ∧
    (s.ph = .hold3 → s.realisation.counted = false → ∃ t e, step s = .next t ∧ t.ph = .idle ∧
      t.hist = s.hist ++ [.sleep (s.holds.t3 s.ln) e] ∧
      s.holds.t3 s.ln ≤ e ∧ t.now = s.now + e ∧ t.line s.ln = s.line s.ln ∧ t.done = some ⟨.ok, none⟩ ∧
      t.results = s.results ++ [⟨.ok, none⟩])

/-- R132, D23: cut into the steps of the phase table, RESET and WAKE latch their line, and six steps later have left behind
what the whole pulse train leaves. -/
def Obligations.StepwisePulseAgrees : Prop :=
  ∀ s, Idle s → s.realisation = .stepwise →
    (s.holds.legal .reset = true →
      ∃ t u, exec .reset s = .next t ∧ t.ph = .drive1 ∧ t.ln = .reset ∧ t.hist = s.hist ∧
        runSteps 6 t = .next u ∧ u.resetLine = some .low ∧ u.wakeLine = s.wakeLine ∧
        PulseRest .reset s.holds.rstLow1 s.holds.rstHigh s.holds.rstLow2 s u) ∧
    (s.holds.legal .wake = true →
      ∃ t u, exec .wake s = .next t ∧ t.ph = .drive1 ∧ t.ln = .wake ∧ t.hist = s.hist ∧
        runSteps 6 t = .next u ∧ u.wakeLine = some .low ∧ u.resetLine = s.resetLine ∧
        PulseRest .wake s.holds.wakeLow1 s.holds.wakeHigh s.holds.wakeLow2 s u)

/-- R133: where the block counts its holds, each drive of a pulse train sets its level and loads N(T), the least number of
periods not shorter than T; the counter then counts down by one at each of N(T) steps, one for each clock period, with the
line at its level; at the last of them the hold is over, having lasted N(T) periods and so at least T, and only the third
completes, with OK. That the counter then reads 0 is the model's choice (log 6). A counter of the bits R133 gives holds N(T_RST_LOW2), and one bit fewer does not. -/
def Obligations.HoldCountsPeriods : Prop :=
  (∀ s p q r v d, s.realisation.counted = true → s.holds.legal s.ln = true → (p, q, r, v, d) ∈ holdRows s → s.ph = p →
    d * Config.fClkHz ≤ periods d * 1000000 ∧ (∀ n, d * Config.fClkHz ≤ n * 1000000 → periods d ≤ n) ∧
    ∃ t, step s = .next t ∧ t.ph = q ∧ t.ln = s.ln ∧ t.tick = periods d ∧ t.line s.ln = some v ∧
      t.hist = s.hist ++ [.gpioSet s.ln v] ∧ t.done = none ∧
      (∀ k, k < periods d → ∃ w, runSteps k t = .next w ∧ w.ph = q ∧ w.tick = periods d - k ∧ w.line s.ln = some v ∧
        w.hist = t.hist ∧ w.done = none) ∧
      ∃ u e, runSteps (periods d) t = .next u ∧ u.ph = r ∧ u.tick = 0 ∧ (r ≠ .idle → u.ln = s.ln) ∧ u.line s.ln = some v ∧
        u.hist = t.hist ++ [.sleep d e] ∧ d ≤ e ∧ u.done = if r = .idle then some ⟨.ok, none⟩ else none) ∧
  ∀ h : Holds, periods h.rstLow2 < 2 ^ counterBits (periods h.rstLow2) ∧
    ∀ b, periods h.rstLow2 < 2 ^ b → counterBits (periods h.rstLow2) ≤ b

/-- R33, R133: where the block counts its holds, the instant after k periods of a hold is its start and the whole microseconds
of k periods, and the hold's Sleep elapsed the whole microseconds of its N(T) periods. The rounding to whole microseconds and
that the drive takes no time of its own are the model's choice (log 22). -/
def Obligations.HoldTimeInPeriods : Prop :=
  ∀ s p q r v d, s.realisation.counted = true → s.holds.legal s.ln = true → (p, q, r, v, d) ∈ holdRows s → s.ph = p →
    ∃ t, step s = .next t ∧ t.now = s.now ∧
      (∀ k, k < periods d → ∃ w, runSteps k t = .next w ∧ w.now = s.now + clockTime k) ∧
      ∃ u, runSteps (periods d) t = .next u ∧ u.now = s.now + clockTime (periods d) ∧
        u.hist = t.hist ++ [.sleep d (clockTime (periods d))]

/-- R125, R126, R132, R133: with its holds counted, a RESET or a WAKE latches its line and, three drives and one step for each
clock period later, has left behind the six events of the whole pulse train, each hold elapsed for its whole periods. That a
drive at a clock edge takes no time of its own is the model's reading (log 22), and that the hold counter is 0 before and after
the model's choice (log 6). -/
def Obligations.ClockedPulseAgrees : Prop :=
  ∀ s, Idle s → s.realisation.counted = true →
    (s.holds.legal .reset = true →
      ∃ t u, exec .reset s = .next t ∧ t.ph = .drive1 ∧ t.ln = .reset ∧ t.hist = s.hist ∧
        runSteps (clockedSteps .reset s.holds) t = .next u ∧ u.resetLine = some .low ∧ u.wakeLine = s.wakeLine ∧
        ClockedRest .reset s u) ∧
    (s.holds.legal .wake = true →
      ∃ t u, exec .wake s = .next t ∧ t.ph = .drive1 ∧ t.ln = .wake ∧ t.hist = s.hist ∧
        runSteps (clockedSteps .wake s.holds) t = .next u ∧ u.wakeLine = some .low ∧ u.resetLine = s.resetLine ∧
        ClockedRest .wake s u)

/-- R133: in every state that meets the invariant the hold counter fits the bits R133 gives it, where T_RST_LOW2 is the longest
of the six holds, as it is by default. That the counter is 0 outside a counted hold is the model's choice (log 6). -/
def Obligations.CounterFits : Prop :=
  ∀ s, BlockInv s →
    s.holds.rstLow1 ≤ s.holds.rstLow2 → s.holds.rstHigh ≤ s.holds.rstLow2 → s.holds.wakeLow1 ≤ s.holds.rstLow2 →
    s.holds.wakeHigh ≤ s.holds.rstLow2 → s.holds.wakeLow2 ≤ s.holds.rstLow2 →
    s.tick < 2 ^ counterBits (periods s.holds.rstLow2)

/-- R22, R130: only RESET writes RESET_LINE and only WAKE writes WAKE_LINE; a pulse train in flight writes its own line
only, and a frame in flight none. -/
def Obligations.LinesAreIndependent : Prop :=
  (∀ i s t, exec i s = .next t →
    (i ≠ .reset → t.resetLine = s.resetLine) ∧ (i ≠ .wake → t.wakeLine = s.wakeLine)) ∧
  (∀ s t l, s.ph ≠ .idle → l ≠ s.ln → step s = .next t → t.line l = s.line l) ∧
  (∀ s t l, s.ph = .idle → s.frame ≠ [] → step s = .next t → t.line l = s.line l)

/-- R133: N(T) periods of the block's clock last at least T, and N(T) is the least such number; the counter's bits hold it,
and one bit fewer would not. -/
def Obligations.TickCountIsLeast : Prop :=
  ∀ f t, t * f ≤ ticks f t * 1000000 ∧ (∀ n, t * f ≤ n * 1000000 → ticks f t ≤ n) ∧
    ticks f t < 2 ^ counterBits (ticks f t) ∧ ∀ b, ticks f t < 2 ^ b → counterBits (ticks f t) ≤ b

/-! ## Invariants and the observation -/

/-- R34: the values the spec gives for the state after construction. -/
def Obligations.StateAfterConstruction : Prop :=
  State.reset.resetLine = none ∧ State.reset.wakeLine = none ∧ State.reset.ph = .idle ∧ State.reset.bi = 0 ∧
  State.reset.frame = [] ∧ State.reset.busy = false ∧ State.reset.hist = [] ∧ State.reset.done = none ∧
  State.reset.holds = ⟨1000, 1000, 2000000, 1000, 1000, 10000⟩

/-- The invariant holds after construction. Of what it says there, the zero of the hold counter is the model's choice (log 6), and
so are the values of the two fields of the ports (log 23). -/
def Obligations.InvAfterConstruction : Prop := BlockInv State.reset

/-- R23, R26, R52, R111, R127, R128, R133, R137: every step keeps the invariant: one operation in flight, the byte index and
the hold counter as the phase says, a line high only in its hold 2, each line at the level last driven onto it, and a history
made of whole operations: frames written whole, pulse trains 0, 1, 0 with every hold at least its minimum. A pulse train in
flight has legal holds (R9). That the hold counter is zero outside a counted hold is the model's choice (log 6): R133 gives no
value there. The clauses about the ports of R36 (payload bytes awaited before any byte leaves, a frame for the caller, the
waits) follow the model's order of cycles (log 23). -/
def Obligations.InvKeptByStep : Prop := ∀ s t, BlockInv s → step s = .next t → BlockInv t

/-- 95 LAWS 5; R61 to R67, R111: every TxWrite of a history the observer accepts carries a frame in order: 9 to 512 bytes whose
XOR is zero. -/
def Obligations.EveryWriteIsAFrame : Prop :=
  ∀ h p bytes a, followAll h = some p → Event.txWrite bytes a ∈ h →
    (∃ cmd pl, Accepted cmd pl ∧ bytes = frameWords cmd pl) ∧ 9 ≤ bytes.length ∧ bytes.length ≤ 512 ∧ xorFold bytes = 0

/-- 95 LAWS 7; R127: in a history of whole operations the levels driven onto a line are 0, 1, 0 over and over. -/
def Obligations.LevelsAreWholeTrains : Prop :=
  ∀ h l, followAll h = some .between →
    ∃ k, levelsOn l h = (List.replicate k [Level.low, Level.high, Level.low]).flatten

/-- R32, R33, R49: the history only grows, by what the block does in order, and the instant never decreases. -/
def Obligations.HistoryOnlyGrows : Prop :=
  ∀ s t, step s = .next t → (∃ evs, t.hist = s.hist ++ evs ∧ evs.length ≤ 6) ∧ s.now ≤ t.now

/-- R28: the construction parameters are static. That the model's own realisation flag never changes either is its choice
(log 2). -/
def Obligations.ParametersAreStatic : Prop :=
  ∀ s t, step s = .next t → t.holds = s.holds ∧ t.realisation = s.realisation

/-- R27, R36: an accepted request run whole is answered by exactly one completion. -/
def Obligations.OneCompletionPerRequest : Prop :=
  ∀ i s t, s.realisation = .transaction → exec i s = .next t →
    ∃ c, t.done = some c ∧ t.results = s.results ++ [c] ∧ t.busy = false

/-- R184: the status codes; RESET and WAKE only ever report OK, ENCODE never a transport error. -/
def Obligations.StatusCodes : Prop :=
  (Status.ok.code = 0b00 ∧ (∀ c, (Status.invalidCommand c).code = 0b01) ∧
    (∀ n, (Status.payloadTooLarge n).code = 0b10) ∧ (∀ a, (Status.transportError a).code = 0b11)) ∧
  (∀ i s t c, exec i s = .next t → t.done = some c →
    (i = .reset ∨ i = .wake → c.status.code = 0b00) ∧
    (∀ cmd payload, i = .encode cmd payload → c.status.code ≠ 0b11))
end

