-- ==== Sys2Proof/Laws/State.lean ====
section
/-! SUPPORT. What each update of the state does to each field: one lemma per field per update. -/

namespace Sys2Proof.Machine


/-! ## record -/

@[simp] theorem State.record_resetLine (s : State) (ev : Event) (e : Nat) : (s.record ev e).resetLine = s.resetLine := rfl
@[simp] theorem State.record_wakeLine (s : State) (ev : Event) (e : Nat) : (s.record ev e).wakeLine = s.wakeLine := rfl
@[simp] theorem State.record_ph (s : State) (ev : Event) (e : Nat) : (s.record ev e).ph = s.ph := rfl
@[simp] theorem State.record_ln (s : State) (ev : Event) (e : Nat) : (s.record ev e).ln = s.ln := rfl
@[simp] theorem State.record_bi (s : State) (ev : Event) (e : Nat) : (s.record ev e).bi = s.bi := rfl
@[simp] theorem State.record_frame (s : State) (ev : Event) (e : Nat) : (s.record ev e).frame = s.frame := rfl
@[simp] theorem State.record_tick (s : State) (ev : Event) (e : Nat) : (s.record ev e).tick = s.tick := rfl
@[simp] theorem State.record_holds (s : State) (ev : Event) (e : Nat) : (s.record ev e).holds = s.holds := rfl
@[simp] theorem State.record_realisation (s : State) (ev : Event) (e : Nat) : (s.record ev e).realisation = s.realisation := rfl
@[simp] theorem State.record_hist (s : State) (ev : Event) (e : Nat) : (s.record ev e).hist = s.hist ++ [ev] := rfl
@[simp] theorem State.record_now (s : State) (ev : Event) (e : Nat) : (s.record ev e).now = s.now + e := rfl
@[simp] theorem State.record_done (s : State) (ev : Event) (e : Nat) : (s.record ev e).done = s.done := rfl
@[simp] theorem State.record_results (s : State) (ev : Event) (e : Nat) : (s.record ev e).results = s.results := rfl
@[simp] theorem State.record_requests (s : State) (ev : Event) (e : Nat) : (s.record ev e).requests = s.requests := rfl
@[simp] theorem State.record_txAnswers (s : State) (ev : Event) (e : Nat) : (s.record ev e).txAnswers = s.txAnswers := rfl
@[simp] theorem State.record_delays (s : State) (ev : Event) (e : Nat) : (s.record ev e).delays = s.delays.tail := rfl
@[simp] theorem State.record_draws (s : State) (ev : Event) (e : Nat) : (s.record ev e).draws = s.draws + 1 := rfl
@[simp] theorem State.record_stream (s : State) (ev : Event) (e : Nat) : (s.record ev e).stream = s.stream := rfl
@[simp] theorem State.record_dest (s : State) (ev : Event) (e : Nat) : (s.record ev e).dest = s.dest := rfl
@[simp] theorem State.record_waits (s : State) (ev : Event) (e : Nat) : (s.record ev e).waits = s.waits := rfl
@[simp] theorem State.record_waited (s : State) (ev : Event) (e : Nat) : (s.record ev e).waited = s.waited := rfl
@[simp] theorem State.record_transfers (s : State) (ev : Event) (e : Nat) : (s.record ev e).transfers = s.transfers := rfl

/-! ## setLine -/

@[simp] theorem State.setLine_resetLine (s : State) (l : Line) (v : Level) :
    (s.setLine l v).resetLine = if l = .reset then some v else s.resetLine := by cases l <;> rfl
@[simp] theorem State.setLine_wakeLine (s : State) (l : Line) (v : Level) :
    (s.setLine l v).wakeLine = if l = .wake then some v else s.wakeLine := by cases l <;> rfl
@[simp] theorem State.setLine_ph (s : State) (l : Line) (v : Level) : (s.setLine l v).ph = s.ph := by cases l <;> rfl
@[simp] theorem State.setLine_ln (s : State) (l : Line) (v : Level) : (s.setLine l v).ln = s.ln := by cases l <;> rfl
@[simp] theorem State.setLine_bi (s : State) (l : Line) (v : Level) : (s.setLine l v).bi = s.bi := by cases l <;> rfl
@[simp] theorem State.setLine_frame (s : State) (l : Line) (v : Level) : (s.setLine l v).frame = s.frame := by cases l <;> rfl
@[simp] theorem State.setLine_tick (s : State) (l : Line) (v : Level) : (s.setLine l v).tick = s.tick := by cases l <;> rfl
@[simp] theorem State.setLine_holds (s : State) (l : Line) (v : Level) : (s.setLine l v).holds = s.holds := by cases l <;> rfl
@[simp] theorem State.setLine_realisation (s : State) (l : Line) (v : Level) : (s.setLine l v).realisation = s.realisation := by cases l <;> rfl
@[simp] theorem State.setLine_hist (s : State) (l : Line) (v : Level) : (s.setLine l v).hist = s.hist := by cases l <;> rfl
@[simp] theorem State.setLine_now (s : State) (l : Line) (v : Level) : (s.setLine l v).now = s.now := by cases l <;> rfl
@[simp] theorem State.setLine_done (s : State) (l : Line) (v : Level) : (s.setLine l v).done = s.done := by cases l <;> rfl
@[simp] theorem State.setLine_results (s : State) (l : Line) (v : Level) : (s.setLine l v).results = s.results := by cases l <;> rfl
@[simp] theorem State.setLine_requests (s : State) (l : Line) (v : Level) : (s.setLine l v).requests = s.requests := by cases l <;> rfl
@[simp] theorem State.setLine_txAnswers (s : State) (l : Line) (v : Level) : (s.setLine l v).txAnswers = s.txAnswers := by cases l <;> rfl
@[simp] theorem State.setLine_delays (s : State) (l : Line) (v : Level) : (s.setLine l v).delays = s.delays := by cases l <;> rfl
@[simp] theorem State.setLine_draws (s : State) (l : Line) (v : Level) : (s.setLine l v).draws = s.draws := by cases l <;> rfl
@[simp] theorem State.setLine_stream (s : State) (l : Line) (v : Level) : (s.setLine l v).stream = s.stream := by cases l <;> rfl
@[simp] theorem State.setLine_dest (s : State) (l : Line) (v : Level) : (s.setLine l v).dest = s.dest := by cases l <;> rfl
@[simp] theorem State.setLine_waits (s : State) (l : Line) (v : Level) : (s.setLine l v).waits = s.waits := by cases l <;> rfl
@[simp] theorem State.setLine_waited (s : State) (l : Line) (v : Level) : (s.setLine l v).waited = s.waited := by cases l <;> rfl
@[simp] theorem State.setLine_transfers (s : State) (l : Line) (v : Level) : (s.setLine l v).transfers = s.transfers := by cases l <;> rfl

/-! ## gpioSet -/

@[simp] theorem State.gpioSet_resetLine (s : State) (l : Line) (v : Level) :
    (s.gpioSet l v).resetLine = if l = .reset then some v else s.resetLine := by cases l <;> rfl
@[simp] theorem State.gpioSet_wakeLine (s : State) (l : Line) (v : Level) :
    (s.gpioSet l v).wakeLine = if l = .wake then some v else s.wakeLine := by cases l <;> rfl
@[simp] theorem State.gpioSet_ph (s : State) (l : Line) (v : Level) : (s.gpioSet l v).ph = s.ph := by cases l <;> rfl
@[simp] theorem State.gpioSet_ln (s : State) (l : Line) (v : Level) : (s.gpioSet l v).ln = s.ln := by cases l <;> rfl
@[simp] theorem State.gpioSet_bi (s : State) (l : Line) (v : Level) : (s.gpioSet l v).bi = s.bi := by cases l <;> rfl
@[simp] theorem State.gpioSet_frame (s : State) (l : Line) (v : Level) : (s.gpioSet l v).frame = s.frame := by cases l <;> rfl
@[simp] theorem State.gpioSet_tick (s : State) (l : Line) (v : Level) : (s.gpioSet l v).tick = s.tick := by cases l <;> rfl
@[simp] theorem State.gpioSet_holds (s : State) (l : Line) (v : Level) : (s.gpioSet l v).holds = s.holds := by cases l <;> rfl
@[simp] theorem State.gpioSet_realisation (s : State) (l : Line) (v : Level) : (s.gpioSet l v).realisation = s.realisation := by cases l <;> rfl
@[simp] theorem State.gpioSet_hist (s : State) (l : Line) (v : Level) : (s.gpioSet l v).hist = s.hist ++ [.gpioSet l v] := by cases l <;> rfl
@[simp] theorem State.gpioSet_now (s : State) (l : Line) (v : Level) : (s.gpioSet l v).now = s.now + s.nextDelay := by cases l <;> rfl
@[simp] theorem State.gpioSet_done (s : State) (l : Line) (v : Level) : (s.gpioSet l v).done = s.done := by cases l <;> rfl
@[simp] theorem State.gpioSet_results (s : State) (l : Line) (v : Level) : (s.gpioSet l v).results = s.results := by cases l <;> rfl
@[simp] theorem State.gpioSet_requests (s : State) (l : Line) (v : Level) : (s.gpioSet l v).requests = s.requests := by cases l <;> rfl
@[simp] theorem State.gpioSet_txAnswers (s : State) (l : Line) (v : Level) : (s.gpioSet l v).txAnswers = s.txAnswers := by cases l <;> rfl
@[simp] theorem State.gpioSet_delays (s : State) (l : Line) (v : Level) : (s.gpioSet l v).delays = s.delays.tail := by cases l <;> rfl
@[simp] theorem State.gpioSet_draws (s : State) (l : Line) (v : Level) : (s.gpioSet l v).draws = s.draws + 1 := by cases l <;> rfl
@[simp] theorem State.gpioSet_stream (s : State) (l : Line) (v : Level) : (s.gpioSet l v).stream = s.stream := by cases l <;> rfl
@[simp] theorem State.gpioSet_dest (s : State) (l : Line) (v : Level) : (s.gpioSet l v).dest = s.dest := by cases l <;> rfl
@[simp] theorem State.gpioSet_waits (s : State) (l : Line) (v : Level) : (s.gpioSet l v).waits = s.waits := by cases l <;> rfl
@[simp] theorem State.gpioSet_waited (s : State) (l : Line) (v : Level) : (s.gpioSet l v).waited = s.waited := by cases l <;> rfl
@[simp] theorem State.gpioSet_transfers (s : State) (l : Line) (v : Level) : (s.gpioSet l v).transfers = s.transfers := by cases l <;> rfl

/-! ## sleep -/

@[simp] theorem State.sleep_resetLine (s : State) (d : Nat) : (s.sleep d).resetLine = s.resetLine := rfl
@[simp] theorem State.sleep_wakeLine (s : State) (d : Nat) : (s.sleep d).wakeLine = s.wakeLine := rfl
@[simp] theorem State.sleep_ph (s : State) (d : Nat) : (s.sleep d).ph = s.ph := rfl
@[simp] theorem State.sleep_ln (s : State) (d : Nat) : (s.sleep d).ln = s.ln := rfl
@[simp] theorem State.sleep_bi (s : State) (d : Nat) : (s.sleep d).bi = s.bi := rfl
@[simp] theorem State.sleep_frame (s : State) (d : Nat) : (s.sleep d).frame = s.frame := rfl
@[simp] theorem State.sleep_tick (s : State) (d : Nat) : (s.sleep d).tick = s.tick := rfl
@[simp] theorem State.sleep_holds (s : State) (d : Nat) : (s.sleep d).holds = s.holds := rfl
@[simp] theorem State.sleep_realisation (s : State) (d : Nat) : (s.sleep d).realisation = s.realisation := rfl
@[simp] theorem State.sleep_hist (s : State) (d : Nat) : (s.sleep d).hist = s.hist ++ [.sleep d (d + s.nextDelay)] := rfl
@[simp] theorem State.sleep_now (s : State) (d : Nat) : (s.sleep d).now = s.now + (d + s.nextDelay) := rfl
@[simp] theorem State.sleep_done (s : State) (d : Nat) : (s.sleep d).done = s.done := rfl
@[simp] theorem State.sleep_results (s : State) (d : Nat) : (s.sleep d).results = s.results := rfl
@[simp] theorem State.sleep_requests (s : State) (d : Nat) : (s.sleep d).requests = s.requests := rfl
@[simp] theorem State.sleep_txAnswers (s : State) (d : Nat) : (s.sleep d).txAnswers = s.txAnswers := rfl
@[simp] theorem State.sleep_delays (s : State) (d : Nat) : (s.sleep d).delays = s.delays.tail := rfl
@[simp] theorem State.sleep_draws (s : State) (d : Nat) : (s.sleep d).draws = s.draws + 1 := rfl
@[simp] theorem State.sleep_stream (s : State) (d : Nat) : (s.sleep d).stream = s.stream := rfl
@[simp] theorem State.sleep_dest (s : State) (d : Nat) : (s.sleep d).dest = s.dest := rfl
@[simp] theorem State.sleep_waits (s : State) (d : Nat) : (s.sleep d).waits = s.waits := rfl
@[simp] theorem State.sleep_waited (s : State) (d : Nat) : (s.sleep d).waited = s.waited := rfl
@[simp] theorem State.sleep_transfers (s : State) (d : Nat) : (s.sleep d).transfers = s.transfers := rfl

/-! ## txWrite -/

@[simp] theorem State.txWrite_resetLine (s : State) (bytes : List Byte) : (s.txWrite bytes).resetLine = s.resetLine := rfl
@[simp] theorem State.txWrite_wakeLine (s : State) (bytes : List Byte) : (s.txWrite bytes).wakeLine = s.wakeLine := rfl
@[simp] theorem State.txWrite_ph (s : State) (bytes : List Byte) : (s.txWrite bytes).ph = s.ph := rfl
@[simp] theorem State.txWrite_ln (s : State) (bytes : List Byte) : (s.txWrite bytes).ln = s.ln := rfl
@[simp] theorem State.txWrite_bi (s : State) (bytes : List Byte) : (s.txWrite bytes).bi = s.bi := rfl
@[simp] theorem State.txWrite_frame (s : State) (bytes : List Byte) : (s.txWrite bytes).frame = s.frame := rfl
@[simp] theorem State.txWrite_tick (s : State) (bytes : List Byte) : (s.txWrite bytes).tick = s.tick := rfl
@[simp] theorem State.txWrite_holds (s : State) (bytes : List Byte) : (s.txWrite bytes).holds = s.holds := rfl
@[simp] theorem State.txWrite_realisation (s : State) (bytes : List Byte) : (s.txWrite bytes).realisation = s.realisation := rfl
@[simp] theorem State.txWrite_hist (s : State) (bytes : List Byte) : (s.txWrite bytes).hist = s.hist ++ [.txWrite bytes s.nextAnswer] := rfl
@[simp] theorem State.txWrite_now (s : State) (bytes : List Byte) : (s.txWrite bytes).now = s.now + s.nextDelay := rfl
@[simp] theorem State.txWrite_done (s : State) (bytes : List Byte) : (s.txWrite bytes).done = s.done := rfl
@[simp] theorem State.txWrite_results (s : State) (bytes : List Byte) : (s.txWrite bytes).results = s.results := rfl
@[simp] theorem State.txWrite_requests (s : State) (bytes : List Byte) : (s.txWrite bytes).requests = s.requests := rfl
@[simp] theorem State.txWrite_txAnswers (s : State) (bytes : List Byte) : (s.txWrite bytes).txAnswers = s.txAnswers.tail := rfl
@[simp] theorem State.txWrite_delays (s : State) (bytes : List Byte) : (s.txWrite bytes).delays = s.delays.tail := rfl
@[simp] theorem State.txWrite_draws (s : State) (bytes : List Byte) : (s.txWrite bytes).draws = s.draws + 1 := rfl
@[simp] theorem State.txWrite_stream (s : State) (bytes : List Byte) : (s.txWrite bytes).stream = s.stream := rfl
@[simp] theorem State.txWrite_dest (s : State) (bytes : List Byte) : (s.txWrite bytes).dest = s.dest := rfl
@[simp] theorem State.txWrite_waits (s : State) (bytes : List Byte) : (s.txWrite bytes).waits = s.waits := rfl
@[simp] theorem State.txWrite_waited (s : State) (bytes : List Byte) : (s.txWrite bytes).waited = s.waited := rfl
@[simp] theorem State.txWrite_transfers (s : State) (bytes : List Byte) : (s.txWrite bytes).transfers = s.transfers := rfl

/-! ## complete -/

@[simp] theorem State.complete_resetLine (s : State) (st : Status) (fr : Option (List Byte)) : (s.complete st fr).resetLine = s.resetLine := rfl
@[simp] theorem State.complete_wakeLine (s : State) (st : Status) (fr : Option (List Byte)) : (s.complete st fr).wakeLine = s.wakeLine := rfl
@[simp] theorem State.complete_ph (s : State) (st : Status) (fr : Option (List Byte)) : (s.complete st fr).ph = s.ph := rfl
@[simp] theorem State.complete_ln (s : State) (st : Status) (fr : Option (List Byte)) : (s.complete st fr).ln = s.ln := rfl
@[simp] theorem State.complete_bi (s : State) (st : Status) (fr : Option (List Byte)) : (s.complete st fr).bi = s.bi := rfl
@[simp] theorem State.complete_frame (s : State) (st : Status) (fr : Option (List Byte)) : (s.complete st fr).frame = s.frame := rfl
@[simp] theorem State.complete_tick (s : State) (st : Status) (fr : Option (List Byte)) : (s.complete st fr).tick = s.tick := rfl
@[simp] theorem State.complete_holds (s : State) (st : Status) (fr : Option (List Byte)) : (s.complete st fr).holds = s.holds := rfl
@[simp] theorem State.complete_realisation (s : State) (st : Status) (fr : Option (List Byte)) : (s.complete st fr).realisation = s.realisation := rfl
@[simp] theorem State.complete_hist (s : State) (st : Status) (fr : Option (List Byte)) : (s.complete st fr).hist = s.hist := rfl
@[simp] theorem State.complete_now (s : State) (st : Status) (fr : Option (List Byte)) : (s.complete st fr).now = s.now := rfl
@[simp] theorem State.complete_done (s : State) (st : Status) (fr : Option (List Byte)) : (s.complete st fr).done = some ⟨st, fr⟩ := rfl
@[simp] theorem State.complete_results (s : State) (st : Status) (fr : Option (List Byte)) : (s.complete st fr).results = s.results ++ [⟨st, fr⟩] := rfl
@[simp] theorem State.complete_requests (s : State) (st : Status) (fr : Option (List Byte)) : (s.complete st fr).requests = s.requests := rfl
@[simp] theorem State.complete_txAnswers (s : State) (st : Status) (fr : Option (List Byte)) : (s.complete st fr).txAnswers = s.txAnswers := rfl
@[simp] theorem State.complete_delays (s : State) (st : Status) (fr : Option (List Byte)) : (s.complete st fr).delays = s.delays := rfl
@[simp] theorem State.complete_draws (s : State) (st : Status) (fr : Option (List Byte)) : (s.complete st fr).draws = s.draws := rfl
@[simp] theorem State.complete_stream (s : State) (st : Status) (fr : Option (List Byte)) : (s.complete st fr).stream = s.stream := rfl
@[simp] theorem State.complete_dest (s : State) (st : Status) (fr : Option (List Byte)) : (s.complete st fr).dest = s.dest := rfl
@[simp] theorem State.complete_waits (s : State) (st : Status) (fr : Option (List Byte)) : (s.complete st fr).waits = s.waits := rfl
@[simp] theorem State.complete_waited (s : State) (st : Status) (fr : Option (List Byte)) : (s.complete st fr).waited = s.waited := rfl
@[simp] theorem State.complete_transfers (s : State) (st : Status) (fr : Option (List Byte)) : (s.complete st fr).transfers = s.transfers := rfl

/-! ## noDone -/

@[simp] theorem State.noDone_resetLine (s : State) : s.noDone.resetLine = s.resetLine := rfl
@[simp] theorem State.noDone_wakeLine (s : State) : s.noDone.wakeLine = s.wakeLine := rfl
@[simp] theorem State.noDone_ph (s : State) : s.noDone.ph = s.ph := rfl
@[simp] theorem State.noDone_ln (s : State) : s.noDone.ln = s.ln := rfl
@[simp] theorem State.noDone_bi (s : State) : s.noDone.bi = s.bi := rfl
@[simp] theorem State.noDone_frame (s : State) : s.noDone.frame = s.frame := rfl
@[simp] theorem State.noDone_tick (s : State) : s.noDone.tick = s.tick := rfl
@[simp] theorem State.noDone_holds (s : State) : s.noDone.holds = s.holds := rfl
@[simp] theorem State.noDone_realisation (s : State) : s.noDone.realisation = s.realisation := rfl
@[simp] theorem State.noDone_hist (s : State) : s.noDone.hist = s.hist := rfl
@[simp] theorem State.noDone_now (s : State) : s.noDone.now = s.now := rfl
@[simp] theorem State.noDone_done (s : State) : s.noDone.done = none := rfl
@[simp] theorem State.noDone_results (s : State) : s.noDone.results = s.results := rfl
@[simp] theorem State.noDone_requests (s : State) : s.noDone.requests = s.requests := rfl
@[simp] theorem State.noDone_txAnswers (s : State) : s.noDone.txAnswers = s.txAnswers := rfl
@[simp] theorem State.noDone_delays (s : State) : s.noDone.delays = s.delays := rfl
@[simp] theorem State.noDone_draws (s : State) : s.noDone.draws = s.draws := rfl
@[simp] theorem State.noDone_stream (s : State) : s.noDone.stream = s.stream := rfl
@[simp] theorem State.noDone_dest (s : State) : s.noDone.dest = s.dest := rfl
@[simp] theorem State.noDone_waits (s : State) : s.noDone.waits = s.waits := rfl
@[simp] theorem State.noDone_waited (s : State) : s.noDone.waited = s.waited := rfl
@[simp] theorem State.noDone_transfers (s : State) : s.noDone.transfers = s.transfers := rfl

/-! ## latch -/

@[simp] theorem State.latch_resetLine (s : State) (l : Line) : (s.latch l).resetLine = s.resetLine := rfl
@[simp] theorem State.latch_wakeLine (s : State) (l : Line) : (s.latch l).wakeLine = s.wakeLine := rfl
@[simp] theorem State.latch_ph (s : State) (l : Line) : (s.latch l).ph = s.ph := rfl
@[simp] theorem State.latch_ln (s : State) (l : Line) : (s.latch l).ln = l := rfl
@[simp] theorem State.latch_bi (s : State) (l : Line) : (s.latch l).bi = s.bi := rfl
@[simp] theorem State.latch_frame (s : State) (l : Line) : (s.latch l).frame = s.frame := rfl
@[simp] theorem State.latch_tick (s : State) (l : Line) : (s.latch l).tick = s.tick := rfl
@[simp] theorem State.latch_holds (s : State) (l : Line) : (s.latch l).holds = s.holds := rfl
@[simp] theorem State.latch_realisation (s : State) (l : Line) : (s.latch l).realisation = s.realisation := rfl
@[simp] theorem State.latch_hist (s : State) (l : Line) : (s.latch l).hist = s.hist := rfl
@[simp] theorem State.latch_now (s : State) (l : Line) : (s.latch l).now = s.now := rfl
@[simp] theorem State.latch_done (s : State) (l : Line) : (s.latch l).done = s.done := rfl
@[simp] theorem State.latch_results (s : State) (l : Line) : (s.latch l).results = s.results := rfl
@[simp] theorem State.latch_requests (s : State) (l : Line) : (s.latch l).requests = s.requests := rfl
@[simp] theorem State.latch_txAnswers (s : State) (l : Line) : (s.latch l).txAnswers = s.txAnswers := rfl
@[simp] theorem State.latch_delays (s : State) (l : Line) : (s.latch l).delays = s.delays := rfl
@[simp] theorem State.latch_draws (s : State) (l : Line) : (s.latch l).draws = s.draws := rfl
@[simp] theorem State.latch_stream (s : State) (l : Line) : (s.latch l).stream = s.stream := rfl
@[simp] theorem State.latch_dest (s : State) (l : Line) : (s.latch l).dest = s.dest := rfl
@[simp] theorem State.latch_waits (s : State) (l : Line) : (s.latch l).waits = s.waits := rfl
@[simp] theorem State.latch_waited (s : State) (l : Line) : (s.latch l).waited = s.waited := rfl
@[simp] theorem State.latch_transfers (s : State) (l : Line) : (s.latch l).transfers = s.transfers := rfl

/-! ## accept -/

@[simp] theorem State.accept_resetLine (s : State) (rest : List Words) : (s.accept rest).resetLine = s.resetLine := rfl
@[simp] theorem State.accept_wakeLine (s : State) (rest : List Words) : (s.accept rest).wakeLine = s.wakeLine := rfl
@[simp] theorem State.accept_ph (s : State) (rest : List Words) : (s.accept rest).ph = s.ph := rfl
@[simp] theorem State.accept_ln (s : State) (rest : List Words) : (s.accept rest).ln = s.ln := rfl
@[simp] theorem State.accept_bi (s : State) (rest : List Words) : (s.accept rest).bi = s.bi := rfl
@[simp] theorem State.accept_frame (s : State) (rest : List Words) : (s.accept rest).frame = s.frame := rfl
@[simp] theorem State.accept_tick (s : State) (rest : List Words) : (s.accept rest).tick = s.tick := rfl
@[simp] theorem State.accept_holds (s : State) (rest : List Words) : (s.accept rest).holds = s.holds := rfl
@[simp] theorem State.accept_realisation (s : State) (rest : List Words) : (s.accept rest).realisation = s.realisation := rfl
@[simp] theorem State.accept_hist (s : State) (rest : List Words) : (s.accept rest).hist = s.hist := rfl
@[simp] theorem State.accept_now (s : State) (rest : List Words) : (s.accept rest).now = s.now := rfl
@[simp] theorem State.accept_done (s : State) (rest : List Words) : (s.accept rest).done = none := rfl
@[simp] theorem State.accept_results (s : State) (rest : List Words) : (s.accept rest).results = s.results := rfl
@[simp] theorem State.accept_requests (s : State) (rest : List Words) : (s.accept rest).requests = rest := rfl
@[simp] theorem State.accept_txAnswers (s : State) (rest : List Words) : (s.accept rest).txAnswers = s.txAnswers := rfl
@[simp] theorem State.accept_delays (s : State) (rest : List Words) : (s.accept rest).delays = s.delays := rfl
@[simp] theorem State.accept_draws (s : State) (rest : List Words) : (s.accept rest).draws = s.draws := rfl
@[simp] theorem State.accept_stream (s : State) (rest : List Words) : (s.accept rest).stream = s.stream := rfl
@[simp] theorem State.accept_dest (s : State) (rest : List Words) : (s.accept rest).dest = s.dest := rfl
@[simp] theorem State.accept_waits (s : State) (rest : List Words) : (s.accept rest).waits = s.waits := rfl
@[simp] theorem State.accept_waited (s : State) (rest : List Words) : (s.accept rest).waited = s.waited := rfl
@[simp] theorem State.accept_transfers (s : State) (rest : List Words) : (s.accept rest).transfers = s.transfers := rfl

/-! ## present -/

@[simp] theorem State.present_resetLine (s : State) (w : Words) : (s.present w).resetLine = s.resetLine := rfl
@[simp] theorem State.present_wakeLine (s : State) (w : Words) : (s.present w).wakeLine = s.wakeLine := rfl
@[simp] theorem State.present_ph (s : State) (w : Words) : (s.present w).ph = .idle := rfl
@[simp] theorem State.present_ln (s : State) (w : Words) : (s.present w).ln = s.ln := rfl
@[simp] theorem State.present_bi (s : State) (w : Words) : (s.present w).bi = s.bi := rfl
@[simp] theorem State.present_frame (s : State) (w : Words) : (s.present w).frame = [] := rfl
@[simp] theorem State.present_tick (s : State) (w : Words) : (s.present w).tick = s.tick := rfl
@[simp] theorem State.present_holds (s : State) (w : Words) : (s.present w).holds = s.holds := rfl
@[simp] theorem State.present_realisation (s : State) (w : Words) : (s.present w).realisation = s.realisation := rfl
@[simp] theorem State.present_hist (s : State) (w : Words) : (s.present w).hist = s.hist := rfl
@[simp] theorem State.present_now (s : State) (w : Words) : (s.present w).now = s.now := rfl
@[simp] theorem State.present_done (s : State) (w : Words) : (s.present w).done = s.done := rfl
@[simp] theorem State.present_results (s : State) (w : Words) : (s.present w).results = s.results := rfl
@[simp] theorem State.present_requests (s : State) (w : Words) : (s.present w).requests = w :: s.requests := rfl
@[simp] theorem State.present_txAnswers (s : State) (w : Words) : (s.present w).txAnswers = s.txAnswers := rfl
@[simp] theorem State.present_delays (s : State) (w : Words) : (s.present w).delays = s.delays := rfl
@[simp] theorem State.present_draws (s : State) (w : Words) : (s.present w).draws = s.draws := rfl
@[simp] theorem State.present_stream (s : State) (w : Words) : (s.present w).stream = s.stream := rfl
@[simp] theorem State.present_dest (s : State) (w : Words) : (s.present w).dest = s.dest := rfl
@[simp] theorem State.present_waits (s : State) (w : Words) : (s.present w).waits = s.waits := rfl
@[simp] theorem State.present_waited (s : State) (w : Words) : (s.present w).waited = s.waited := rfl
@[simp] theorem State.present_transfers (s : State) (w : Words) : (s.present w).transfers = s.transfers := rfl

/-! ## discard -/

@[simp] theorem State.discard_resetLine (s : State) : s.discard.resetLine = s.resetLine := rfl
@[simp] theorem State.discard_wakeLine (s : State) : s.discard.wakeLine = s.wakeLine := rfl
@[simp] theorem State.discard_ph (s : State) : s.discard.ph = s.ph := rfl
@[simp] theorem State.discard_ln (s : State) : s.discard.ln = s.ln := rfl
@[simp] theorem State.discard_bi (s : State) : s.discard.bi = 0 := rfl
@[simp] theorem State.discard_frame (s : State) : s.discard.frame = [] := rfl
@[simp] theorem State.discard_tick (s : State) : s.discard.tick = s.tick := rfl
@[simp] theorem State.discard_holds (s : State) : s.discard.holds = s.holds := rfl
@[simp] theorem State.discard_realisation (s : State) : s.discard.realisation = s.realisation := rfl
@[simp] theorem State.discard_hist (s : State) : s.discard.hist = s.hist := rfl
@[simp] theorem State.discard_now (s : State) : s.discard.now = s.now := rfl
@[simp] theorem State.discard_done (s : State) : s.discard.done = s.done := rfl
@[simp] theorem State.discard_results (s : State) : s.discard.results = s.results := rfl
@[simp] theorem State.discard_requests (s : State) : s.discard.requests = s.requests := rfl
@[simp] theorem State.discard_txAnswers (s : State) : s.discard.txAnswers = s.txAnswers := rfl
@[simp] theorem State.discard_delays (s : State) : s.discard.delays = s.delays := rfl
@[simp] theorem State.discard_draws (s : State) : s.discard.draws = s.draws := rfl
@[simp] theorem State.discard_stream (s : State) : s.discard.stream = s.stream := rfl
@[simp] theorem State.discard_dest (s : State) : s.discard.dest = s.dest := rfl
@[simp] theorem State.discard_waits (s : State) : s.discard.waits = s.waits := rfl
@[simp] theorem State.discard_waited (s : State) : s.discard.waited = s.waited := rfl
@[simp] theorem State.discard_transfers (s : State) : s.discard.transfers = s.transfers := rfl

/-! ## toPhase -/

@[simp] theorem State.toPhase_resetLine (s : State) (next : Phase) (count : Nat) : (s.toPhase next count).resetLine = s.resetLine := rfl
@[simp] theorem State.toPhase_wakeLine (s : State) (next : Phase) (count : Nat) : (s.toPhase next count).wakeLine = s.wakeLine := rfl
@[simp] theorem State.toPhase_ph (s : State) (next : Phase) (count : Nat) : (s.toPhase next count).ph = next := rfl
@[simp] theorem State.toPhase_ln (s : State) (next : Phase) (count : Nat) : (s.toPhase next count).ln = s.ln := rfl
@[simp] theorem State.toPhase_bi (s : State) (next : Phase) (count : Nat) : (s.toPhase next count).bi = s.bi := rfl
@[simp] theorem State.toPhase_frame (s : State) (next : Phase) (count : Nat) : (s.toPhase next count).frame = s.frame := rfl
@[simp] theorem State.toPhase_tick (s : State) (next : Phase) (count : Nat) : (s.toPhase next count).tick = count := rfl
@[simp] theorem State.toPhase_holds (s : State) (next : Phase) (count : Nat) : (s.toPhase next count).holds = s.holds := rfl
@[simp] theorem State.toPhase_realisation (s : State) (next : Phase) (count : Nat) : (s.toPhase next count).realisation = s.realisation := rfl
@[simp] theorem State.toPhase_hist (s : State) (next : Phase) (count : Nat) : (s.toPhase next count).hist = s.hist := rfl
@[simp] theorem State.toPhase_now (s : State) (next : Phase) (count : Nat) : (s.toPhase next count).now = s.now := rfl
@[simp] theorem State.toPhase_done (s : State) (next : Phase) (count : Nat) : (s.toPhase next count).done = none := rfl
@[simp] theorem State.toPhase_results (s : State) (next : Phase) (count : Nat) : (s.toPhase next count).results = s.results := rfl
@[simp] theorem State.toPhase_requests (s : State) (next : Phase) (count : Nat) : (s.toPhase next count).requests = s.requests := rfl
@[simp] theorem State.toPhase_txAnswers (s : State) (next : Phase) (count : Nat) : (s.toPhase next count).txAnswers = s.txAnswers := rfl
@[simp] theorem State.toPhase_delays (s : State) (next : Phase) (count : Nat) : (s.toPhase next count).delays = s.delays := rfl
@[simp] theorem State.toPhase_draws (s : State) (next : Phase) (count : Nat) : (s.toPhase next count).draws = s.draws := rfl
@[simp] theorem State.toPhase_stream (s : State) (next : Phase) (count : Nat) : (s.toPhase next count).stream = s.stream := rfl
@[simp] theorem State.toPhase_dest (s : State) (next : Phase) (count : Nat) : (s.toPhase next count).dest = s.dest := rfl
@[simp] theorem State.toPhase_waits (s : State) (next : Phase) (count : Nat) : (s.toPhase next count).waits = s.waits := rfl
@[simp] theorem State.toPhase_waited (s : State) (next : Phase) (count : Nat) : (s.toPhase next count).waited = s.waited := rfl
@[simp] theorem State.toPhase_transfers (s : State) (next : Phase) (count : Nat) : (s.toPhase next count).transfers = s.transfers := rfl

/-! ## note -/

@[simp] theorem State.note_resetLine (s : State) (ev : Event) :
    (s.note ev).resetLine = s.resetLine := rfl
@[simp] theorem State.note_wakeLine (s : State) (ev : Event) :
    (s.note ev).wakeLine = s.wakeLine := rfl
@[simp] theorem State.note_ph (s : State) (ev : Event) :
    (s.note ev).ph = s.ph := rfl
@[simp] theorem State.note_ln (s : State) (ev : Event) :
    (s.note ev).ln = s.ln := rfl
@[simp] theorem State.note_bi (s : State) (ev : Event) :
    (s.note ev).bi = s.bi := rfl
@[simp] theorem State.note_frame (s : State) (ev : Event) :
    (s.note ev).frame = s.frame := rfl
@[simp] theorem State.note_tick (s : State) (ev : Event) :
    (s.note ev).tick = s.tick := rfl
@[simp] theorem State.note_holds (s : State) (ev : Event) :
    (s.note ev).holds = s.holds := rfl
@[simp] theorem State.note_realisation (s : State) (ev : Event) :
    (s.note ev).realisation = s.realisation := rfl
@[simp] theorem State.note_hist (s : State) (ev : Event) :
    (s.note ev).hist = s.hist ++ [ev] := rfl
@[simp] theorem State.note_now (s : State) (ev : Event) :
    (s.note ev).now = s.now := rfl
@[simp] theorem State.note_done (s : State) (ev : Event) :
    (s.note ev).done = s.done := rfl
@[simp] theorem State.note_results (s : State) (ev : Event) :
    (s.note ev).results = s.results := rfl
@[simp] theorem State.note_requests (s : State) (ev : Event) :
    (s.note ev).requests = s.requests := rfl
@[simp] theorem State.note_txAnswers (s : State) (ev : Event) :
    (s.note ev).txAnswers = s.txAnswers := rfl
@[simp] theorem State.note_delays (s : State) (ev : Event) :
    (s.note ev).delays = s.delays := rfl
@[simp] theorem State.note_draws (s : State) (ev : Event) :
    (s.note ev).draws = s.draws := rfl
@[simp] theorem State.note_stream (s : State) (ev : Event) :
    (s.note ev).stream = s.stream := rfl
@[simp] theorem State.note_dest (s : State) (ev : Event) :
    (s.note ev).dest = s.dest := rfl
@[simp] theorem State.note_waits (s : State) (ev : Event) :
    (s.note ev).waits = s.waits := rfl
@[simp] theorem State.note_waited (s : State) (ev : Event) :
    (s.note ev).waited = s.waited := rfl
@[simp] theorem State.note_transfers (s : State) (ev : Event) :
    (s.note ev).transfers = s.transfers := rfl

/-! ## gpioAtEdge -/

@[simp] theorem State.gpioAtEdge_resetLine (s : State) (l : Line) (v : Level) :
    (s.gpioAtEdge l v).resetLine = if l = .reset then some v else s.resetLine := by cases l <;> rfl
@[simp] theorem State.gpioAtEdge_wakeLine (s : State) (l : Line) (v : Level) :
    (s.gpioAtEdge l v).wakeLine = if l = .wake then some v else s.wakeLine := by cases l <;> rfl
@[simp] theorem State.gpioAtEdge_ph (s : State) (l : Line) (v : Level) :
    (s.gpioAtEdge l v).ph = s.ph := by cases l <;> rfl
@[simp] theorem State.gpioAtEdge_ln (s : State) (l : Line) (v : Level) :
    (s.gpioAtEdge l v).ln = s.ln := by cases l <;> rfl
@[simp] theorem State.gpioAtEdge_bi (s : State) (l : Line) (v : Level) :
    (s.gpioAtEdge l v).bi = s.bi := by cases l <;> rfl
@[simp] theorem State.gpioAtEdge_frame (s : State) (l : Line) (v : Level) :
    (s.gpioAtEdge l v).frame = s.frame := by cases l <;> rfl
@[simp] theorem State.gpioAtEdge_tick (s : State) (l : Line) (v : Level) :
    (s.gpioAtEdge l v).tick = s.tick := by cases l <;> rfl
@[simp] theorem State.gpioAtEdge_holds (s : State) (l : Line) (v : Level) :
    (s.gpioAtEdge l v).holds = s.holds := by cases l <;> rfl
@[simp] theorem State.gpioAtEdge_realisation (s : State) (l : Line) (v : Level) :
    (s.gpioAtEdge l v).realisation = s.realisation := by cases l <;> rfl
@[simp] theorem State.gpioAtEdge_hist (s : State) (l : Line) (v : Level) :
    (s.gpioAtEdge l v).hist = s.hist ++ [.gpioSet l v] := by cases l <;> rfl
@[simp] theorem State.gpioAtEdge_now (s : State) (l : Line) (v : Level) :
    (s.gpioAtEdge l v).now = s.now := by cases l <;> rfl
@[simp] theorem State.gpioAtEdge_done (s : State) (l : Line) (v : Level) :
    (s.gpioAtEdge l v).done = s.done := by cases l <;> rfl
@[simp] theorem State.gpioAtEdge_results (s : State) (l : Line) (v : Level) :
    (s.gpioAtEdge l v).results = s.results := by cases l <;> rfl
@[simp] theorem State.gpioAtEdge_requests (s : State) (l : Line) (v : Level) :
    (s.gpioAtEdge l v).requests = s.requests := by cases l <;> rfl
@[simp] theorem State.gpioAtEdge_txAnswers (s : State) (l : Line) (v : Level) :
    (s.gpioAtEdge l v).txAnswers = s.txAnswers := by cases l <;> rfl
@[simp] theorem State.gpioAtEdge_delays (s : State) (l : Line) (v : Level) :
    (s.gpioAtEdge l v).delays = s.delays := by cases l <;> rfl
@[simp] theorem State.gpioAtEdge_draws (s : State) (l : Line) (v : Level) :
    (s.gpioAtEdge l v).draws = s.draws := by cases l <;> rfl
@[simp] theorem State.gpioAtEdge_stream (s : State) (l : Line) (v : Level) :
    (s.gpioAtEdge l v).stream = s.stream := by cases l <;> rfl
@[simp] theorem State.gpioAtEdge_dest (s : State) (l : Line) (v : Level) :
    (s.gpioAtEdge l v).dest = s.dest := by cases l <;> rfl
@[simp] theorem State.gpioAtEdge_waits (s : State) (l : Line) (v : Level) :
    (s.gpioAtEdge l v).waits = s.waits := by cases l <;> rfl
@[simp] theorem State.gpioAtEdge_waited (s : State) (l : Line) (v : Level) :
    (s.gpioAtEdge l v).waited = s.waited := by cases l <;> rfl
@[simp] theorem State.gpioAtEdge_transfers (s : State) (l : Line) (v : Level) :
    (s.gpioAtEdge l v).transfers = s.transfers := by cases l <;> rfl

/-! ## elapse -/

@[simp] theorem State.elapse_resetLine (s : State) (e : Nat) : (s.elapse e).resetLine = s.resetLine := rfl
@[simp] theorem State.elapse_wakeLine (s : State) (e : Nat) : (s.elapse e).wakeLine = s.wakeLine := rfl
@[simp] theorem State.elapse_ph (s : State) (e : Nat) : (s.elapse e).ph = s.ph := rfl
@[simp] theorem State.elapse_ln (s : State) (e : Nat) : (s.elapse e).ln = s.ln := rfl
@[simp] theorem State.elapse_bi (s : State) (e : Nat) : (s.elapse e).bi = s.bi := rfl
@[simp] theorem State.elapse_frame (s : State) (e : Nat) : (s.elapse e).frame = s.frame := rfl
@[simp] theorem State.elapse_tick (s : State) (e : Nat) : (s.elapse e).tick = s.tick := rfl
@[simp] theorem State.elapse_holds (s : State) (e : Nat) : (s.elapse e).holds = s.holds := rfl
@[simp] theorem State.elapse_realisation (s : State) (e : Nat) : (s.elapse e).realisation = s.realisation := rfl
@[simp] theorem State.elapse_hist (s : State) (e : Nat) : (s.elapse e).hist = s.hist := rfl
@[simp] theorem State.elapse_now (s : State) (e : Nat) : (s.elapse e).now = s.now + e := Nat.add_comm e s.now
@[simp] theorem State.elapse_done (s : State) (e : Nat) : (s.elapse e).done = s.done := rfl
@[simp] theorem State.elapse_results (s : State) (e : Nat) : (s.elapse e).results = s.results := rfl
@[simp] theorem State.elapse_requests (s : State) (e : Nat) : (s.elapse e).requests = s.requests := rfl
@[simp] theorem State.elapse_txAnswers (s : State) (e : Nat) : (s.elapse e).txAnswers = s.txAnswers := rfl
@[simp] theorem State.elapse_delays (s : State) (e : Nat) : (s.elapse e).delays = s.delays := rfl
@[simp] theorem State.elapse_draws (s : State) (e : Nat) : (s.elapse e).draws = s.draws := rfl
@[simp] theorem State.elapse_stream (s : State) (e : Nat) : (s.elapse e).stream = s.stream := rfl
@[simp] theorem State.elapse_dest (s : State) (e : Nat) : (s.elapse e).dest = s.dest := rfl
@[simp] theorem State.elapse_waits (s : State) (e : Nat) : (s.elapse e).waits = s.waits := rfl
@[simp] theorem State.elapse_waited (s : State) (e : Nat) : (s.elapse e).waited = s.waited := rfl
@[simp] theorem State.elapse_transfers (s : State) (e : Nat) : (s.elapse e).transfers = s.transfers := rfl

/-! ## waitCycle -/

@[simp] theorem State.waitCycle_resetLine (s : State) : s.waitCycle.resetLine = s.resetLine := rfl
@[simp] theorem State.waitCycle_wakeLine (s : State) : s.waitCycle.wakeLine = s.wakeLine := rfl
@[simp] theorem State.waitCycle_ph (s : State) : s.waitCycle.ph = s.ph := rfl
@[simp] theorem State.waitCycle_ln (s : State) : s.waitCycle.ln = s.ln := rfl
@[simp] theorem State.waitCycle_bi (s : State) : s.waitCycle.bi = s.bi := rfl
@[simp] theorem State.waitCycle_frame (s : State) : s.waitCycle.frame = s.frame := rfl
@[simp] theorem State.waitCycle_stream (s : State) : s.waitCycle.stream = s.stream := rfl
@[simp] theorem State.waitCycle_dest (s : State) : s.waitCycle.dest = s.dest := rfl
@[simp] theorem State.waitCycle_tick (s : State) : s.waitCycle.tick = s.tick := rfl
@[simp] theorem State.waitCycle_holds (s : State) : s.waitCycle.holds = s.holds := rfl
@[simp] theorem State.waitCycle_realisation (s : State) : s.waitCycle.realisation = s.realisation := rfl
@[simp] theorem State.waitCycle_hist (s : State) : s.waitCycle.hist = s.hist := rfl
@[simp] theorem State.waitCycle_now (s : State) : s.waitCycle.now = s.now := rfl
@[simp] theorem State.waitCycle_done (s : State) : s.waitCycle.done = none := rfl
@[simp] theorem State.waitCycle_results (s : State) : s.waitCycle.results = s.results := rfl
@[simp] theorem State.waitCycle_requests (s : State) : s.waitCycle.requests = s.requests := rfl
@[simp] theorem State.waitCycle_txAnswers (s : State) : s.waitCycle.txAnswers = s.txAnswers := rfl
@[simp] theorem State.waitCycle_delays (s : State) : s.waitCycle.delays = s.delays := rfl
@[simp] theorem State.waitCycle_draws (s : State) : s.waitCycle.draws = s.draws := rfl
@[simp] theorem State.waitCycle_waits (s : State) : s.waitCycle.waits = s.waits := rfl
@[simp] theorem State.waitCycle_waited (s : State) : s.waitCycle.waited = s.waited + 1 := rfl
@[simp] theorem State.waitCycle_transfers (s : State) : s.waitCycle.transfers = s.transfers := rfl

/-! ## transferCycle -/

@[simp] theorem State.transferCycle_resetLine (s : State) : s.transferCycle.resetLine = s.resetLine := rfl
@[simp] theorem State.transferCycle_wakeLine (s : State) : s.transferCycle.wakeLine = s.wakeLine := rfl
@[simp] theorem State.transferCycle_ph (s : State) : s.transferCycle.ph = s.ph := rfl
@[simp] theorem State.transferCycle_ln (s : State) : s.transferCycle.ln = s.ln := rfl
@[simp] theorem State.transferCycle_bi (s : State) : s.transferCycle.bi = s.bi := rfl
@[simp] theorem State.transferCycle_frame (s : State) : s.transferCycle.frame = s.frame := rfl
@[simp] theorem State.transferCycle_stream (s : State) : s.transferCycle.stream = s.stream := rfl
@[simp] theorem State.transferCycle_dest (s : State) : s.transferCycle.dest = s.dest := rfl
@[simp] theorem State.transferCycle_tick (s : State) : s.transferCycle.tick = s.tick := rfl
@[simp] theorem State.transferCycle_holds (s : State) : s.transferCycle.holds = s.holds := rfl
@[simp] theorem State.transferCycle_realisation (s : State) : s.transferCycle.realisation = s.realisation := rfl
@[simp] theorem State.transferCycle_hist (s : State) : s.transferCycle.hist = s.hist := rfl
@[simp] theorem State.transferCycle_now (s : State) : s.transferCycle.now = s.now := rfl
@[simp] theorem State.transferCycle_done (s : State) : s.transferCycle.done = none := rfl
@[simp] theorem State.transferCycle_results (s : State) : s.transferCycle.results = s.results := rfl
@[simp] theorem State.transferCycle_requests (s : State) : s.transferCycle.requests = s.requests := rfl
@[simp] theorem State.transferCycle_txAnswers (s : State) : s.transferCycle.txAnswers = s.txAnswers := rfl
@[simp] theorem State.transferCycle_delays (s : State) : s.transferCycle.delays = s.delays := rfl
@[simp] theorem State.transferCycle_draws (s : State) : s.transferCycle.draws = s.draws := rfl
@[simp] theorem State.transferCycle_waits (s : State) : s.transferCycle.waits = s.waits.tail := rfl
@[simp] theorem State.transferCycle_waited (s : State) : s.transferCycle.waited = 0 := rfl
@[simp] theorem State.transferCycle_transfers (s : State) : s.transferCycle.transfers = s.transfers + 1 := rfl

/-! ## release -/

@[simp] theorem State.release_resetLine (s : State) : s.release.resetLine = s.resetLine := rfl
@[simp] theorem State.release_wakeLine (s : State) : s.release.wakeLine = s.wakeLine := rfl
@[simp] theorem State.release_ph (s : State) : s.release.ph = s.ph := rfl
@[simp] theorem State.release_ln (s : State) : s.release.ln = s.ln := rfl
@[simp] theorem State.release_bi (s : State) : s.release.bi = 0 := rfl
@[simp] theorem State.release_frame (s : State) : s.release.frame = [] := rfl
@[simp] theorem State.release_stream (s : State) : s.release.stream = s.stream := rfl
@[simp] theorem State.release_dest (s : State) : s.release.dest = .transport := rfl
@[simp] theorem State.release_tick (s : State) : s.release.tick = s.tick := rfl
@[simp] theorem State.release_holds (s : State) : s.release.holds = s.holds := rfl
@[simp] theorem State.release_realisation (s : State) : s.release.realisation = s.realisation := rfl
@[simp] theorem State.release_hist (s : State) : s.release.hist = s.hist := rfl
@[simp] theorem State.release_now (s : State) : s.release.now = s.now := rfl
@[simp] theorem State.release_done (s : State) : s.release.done = s.done := rfl
@[simp] theorem State.release_results (s : State) : s.release.results = s.results := rfl
@[simp] theorem State.release_requests (s : State) : s.release.requests = s.requests := rfl
@[simp] theorem State.release_txAnswers (s : State) : s.release.txAnswers = s.txAnswers := rfl
@[simp] theorem State.release_delays (s : State) : s.release.delays = s.delays := rfl
@[simp] theorem State.release_draws (s : State) : s.release.draws = s.draws := rfl
@[simp] theorem State.release_waits (s : State) : s.release.waits = s.waits := rfl
@[simp] theorem State.release_waited (s : State) : s.release.waited = s.waited := rfl
@[simp] theorem State.release_transfers (s : State) : s.release.transfers = s.transfers := rfl

/-! ## sealWhole -/

@[simp] theorem State.sealWhole_resetLine (s : State) : s.sealWhole.resetLine = s.resetLine := by
  unfold State.sealWhole; split <;> rfl
@[simp] theorem State.sealWhole_wakeLine (s : State) : s.sealWhole.wakeLine = s.wakeLine := by
  unfold State.sealWhole; split <;> rfl
@[simp] theorem State.sealWhole_ph (s : State) : s.sealWhole.ph = s.ph := by
  unfold State.sealWhole; split <;> rfl
@[simp] theorem State.sealWhole_ln (s : State) : s.sealWhole.ln = s.ln := by
  unfold State.sealWhole; split <;> rfl
@[simp] theorem State.sealWhole_bi (s : State) : s.sealWhole.bi = s.bi := by
  unfold State.sealWhole; split <;> rfl
@[simp] theorem State.sealWhole_frame (s : State) : s.sealWhole.frame = if s.stream = [] then sealFrame s.frame else s.frame := by
  unfold State.sealWhole; split <;> rfl
@[simp] theorem State.sealWhole_stream (s : State) : s.sealWhole.stream = s.stream := by
  unfold State.sealWhole; split <;> rfl
@[simp] theorem State.sealWhole_dest (s : State) : s.sealWhole.dest = s.dest := by
  unfold State.sealWhole; split <;> rfl
@[simp] theorem State.sealWhole_tick (s : State) : s.sealWhole.tick = s.tick := by
  unfold State.sealWhole; split <;> rfl
@[simp] theorem State.sealWhole_holds (s : State) : s.sealWhole.holds = s.holds := by
  unfold State.sealWhole; split <;> rfl
@[simp] theorem State.sealWhole_realisation (s : State) : s.sealWhole.realisation = s.realisation := by
  unfold State.sealWhole; split <;> rfl
@[simp] theorem State.sealWhole_hist (s : State) : s.sealWhole.hist = s.hist := by
  unfold State.sealWhole; split <;> rfl
@[simp] theorem State.sealWhole_now (s : State) : s.sealWhole.now = s.now := by
  unfold State.sealWhole; split <;> rfl
@[simp] theorem State.sealWhole_done (s : State) : s.sealWhole.done = s.done := by
  unfold State.sealWhole; split <;> rfl
@[simp] theorem State.sealWhole_results (s : State) : s.sealWhole.results = s.results := by
  unfold State.sealWhole; split <;> rfl
@[simp] theorem State.sealWhole_requests (s : State) : s.sealWhole.requests = s.requests := by
  unfold State.sealWhole; split <;> rfl
@[simp] theorem State.sealWhole_txAnswers (s : State) : s.sealWhole.txAnswers = s.txAnswers := by
  unfold State.sealWhole; split <;> rfl
@[simp] theorem State.sealWhole_delays (s : State) : s.sealWhole.delays = s.delays := by
  unfold State.sealWhole; split <;> rfl
@[simp] theorem State.sealWhole_draws (s : State) : s.sealWhole.draws = s.draws := by
  unfold State.sealWhole; split <;> rfl
@[simp] theorem State.sealWhole_waits (s : State) : s.sealWhole.waits = s.waits := by
  unfold State.sealWhole; split <;> rfl
@[simp] theorem State.sealWhole_waited (s : State) : s.sealWhole.waited = s.waited := by
  unfold State.sealWhole; split <;> rfl
@[simp] theorem State.sealWhole_transfers (s : State) : s.sealWhole.transfers = s.transfers := by
  unfold State.sealWhole; split <;> rfl

/-! ## One line after a drive -/

@[simp] theorem State.line_setLine_self (s : State) (l : Line) (v : Level) : (s.setLine l v).line l = some v := by
  cases l <;> rfl

/-- The other line is left alone (R22). -/
theorem State.line_setLine_other (s : State) {l m : Line} (v : Level) (h : m ≠ l) : (s.setLine l v).line m = s.line m := by
  cases l <;> cases m <;> first | rfl | exact absurd rfl h

@[simp] theorem State.line_gpioSet_self (s : State) (l : Line) (v : Level) : (s.gpioSet l v).line l = some v := by
  cases l <;> rfl

theorem State.line_gpioSet_other (s : State) {l m : Line} (v : Level) (h : m ≠ l) : (s.gpioSet l v).line m = s.line m := by
  cases l <;> cases m <;> first | rfl | exact absurd rfl h

@[simp] theorem State.line_gpioAtEdge_self (s : State) (l : Line) (v : Level) : (s.gpioAtEdge l v).line l = some v := by
  cases l <;> rfl

theorem State.line_gpioAtEdge_other (s : State) {l m : Line} (v : Level) (h : m ≠ l) :
    (s.gpioAtEdge l v).line m = s.line m := by
  cases l <;> cases m <;> first | rfl | exact absurd rfl h

/-! ## The steps of a pulse train leave alone what no pulse train writes -/

@[simp] theorem State.countStep_ln (s : State) (t : Nat) (next : Phase) : (s.countStep t next).ln = s.ln := by
  unfold State.countStep; split <;> simp
@[simp] theorem State.countStep_bi (s : State) (t : Nat) (next : Phase) : (s.countStep t next).bi = s.bi := by
  unfold State.countStep; split <;> simp
@[simp] theorem State.countStep_frame (s : State) (t : Nat) (next : Phase) : (s.countStep t next).frame = s.frame := by
  unfold State.countStep; split <;> simp
@[simp] theorem State.countStep_holds (s : State) (t : Nat) (next : Phase) : (s.countStep t next).holds = s.holds := by
  unfold State.countStep; split <;> simp
@[simp] theorem State.countStep_realisation (s : State) (t : Nat) (next : Phase) : (s.countStep t next).realisation = s.realisation := by
  unfold State.countStep; split <;> simp
@[simp] theorem State.countStep_requests (s : State) (t : Nat) (next : Phase) : (s.countStep t next).requests = s.requests := by
  unfold State.countStep; split <;> simp
@[simp] theorem State.countStep_txAnswers (s : State) (t : Nat) (next : Phase) : (s.countStep t next).txAnswers = s.txAnswers := by
  unfold State.countStep; split <;> simp
@[simp] theorem State.countStep_stream (s : State) (t : Nat) (next : Phase) : (s.countStep t next).stream = s.stream := by
  unfold State.countStep; split <;> simp
@[simp] theorem State.countStep_dest (s : State) (t : Nat) (next : Phase) : (s.countStep t next).dest = s.dest := by
  unfold State.countStep; split <;> simp
@[simp] theorem State.countStep_waits (s : State) (t : Nat) (next : Phase) : (s.countStep t next).waits = s.waits := by
  unfold State.countStep; split <;> simp
@[simp] theorem State.countStep_waited (s : State) (t : Nat) (next : Phase) : (s.countStep t next).waited = s.waited := by
  unfold State.countStep; split <;> simp
@[simp] theorem State.countStep_transfers (s : State) (t : Nat) (next : Phase) : (s.countStep t next).transfers = s.transfers := by
  unfold State.countStep; split <;> simp

@[simp] theorem State.holdStep_ln (s : State) (t : Nat) (next : Phase) : (s.holdStep t next).ln = s.ln := by
  unfold State.holdStep; split <;> simp
@[simp] theorem State.holdStep_bi (s : State) (t : Nat) (next : Phase) : (s.holdStep t next).bi = s.bi := by
  unfold State.holdStep; split <;> simp
@[simp] theorem State.holdStep_frame (s : State) (t : Nat) (next : Phase) : (s.holdStep t next).frame = s.frame := by
  unfold State.holdStep; split <;> simp
@[simp] theorem State.holdStep_holds (s : State) (t : Nat) (next : Phase) : (s.holdStep t next).holds = s.holds := by
  unfold State.holdStep; split <;> simp
@[simp] theorem State.holdStep_realisation (s : State) (t : Nat) (next : Phase) : (s.holdStep t next).realisation = s.realisation := by
  unfold State.holdStep; split <;> simp
@[simp] theorem State.holdStep_requests (s : State) (t : Nat) (next : Phase) : (s.holdStep t next).requests = s.requests := by
  unfold State.holdStep; split <;> simp
@[simp] theorem State.holdStep_txAnswers (s : State) (t : Nat) (next : Phase) : (s.holdStep t next).txAnswers = s.txAnswers := by
  unfold State.holdStep; split <;> simp
@[simp] theorem State.holdStep_stream (s : State) (t : Nat) (next : Phase) : (s.holdStep t next).stream = s.stream := by
  unfold State.holdStep; split <;> simp
@[simp] theorem State.holdStep_dest (s : State) (t : Nat) (next : Phase) : (s.holdStep t next).dest = s.dest := by
  unfold State.holdStep; split <;> simp
@[simp] theorem State.holdStep_waits (s : State) (t : Nat) (next : Phase) : (s.holdStep t next).waits = s.waits := by
  unfold State.holdStep; split <;> simp
@[simp] theorem State.holdStep_waited (s : State) (t : Nat) (next : Phase) : (s.holdStep t next).waited = s.waited := by
  unfold State.holdStep; split <;> simp
@[simp] theorem State.holdStep_transfers (s : State) (t : Nat) (next : Phase) : (s.holdStep t next).transfers = s.transfers := by
  unfold State.holdStep; split <;> simp

@[simp] theorem State.driveStep_ln (s : State) (v : Level) (t : Nat) (next : Phase) : (s.driveStep v t next).ln = s.ln := by
  unfold State.driveStep; split <;> simp
@[simp] theorem State.driveStep_bi (s : State) (v : Level) (t : Nat) (next : Phase) : (s.driveStep v t next).bi = s.bi := by
  unfold State.driveStep; split <;> simp
@[simp] theorem State.driveStep_frame (s : State) (v : Level) (t : Nat) (next : Phase) : (s.driveStep v t next).frame = s.frame := by
  unfold State.driveStep; split <;> simp
@[simp] theorem State.driveStep_holds (s : State) (v : Level) (t : Nat) (next : Phase) : (s.driveStep v t next).holds = s.holds := by
  unfold State.driveStep; split <;> simp
@[simp] theorem State.driveStep_realisation (s : State) (v : Level) (t : Nat) (next : Phase) : (s.driveStep v t next).realisation = s.realisation := by
  unfold State.driveStep; split <;> simp
@[simp] theorem State.driveStep_requests (s : State) (v : Level) (t : Nat) (next : Phase) : (s.driveStep v t next).requests = s.requests := by
  unfold State.driveStep; split <;> simp
@[simp] theorem State.driveStep_txAnswers (s : State) (v : Level) (t : Nat) (next : Phase) : (s.driveStep v t next).txAnswers = s.txAnswers := by
  unfold State.driveStep; split <;> simp
@[simp] theorem State.driveStep_stream (s : State) (v : Level) (t : Nat) (next : Phase) : (s.driveStep v t next).stream = s.stream := by
  unfold State.driveStep; split <;> simp
@[simp] theorem State.driveStep_dest (s : State) (v : Level) (t : Nat) (next : Phase) : (s.driveStep v t next).dest = s.dest := by
  unfold State.driveStep; split <;> simp
@[simp] theorem State.driveStep_waits (s : State) (v : Level) (t : Nat) (next : Phase) : (s.driveStep v t next).waits = s.waits := by
  unfold State.driveStep; split <;> simp
@[simp] theorem State.driveStep_waited (s : State) (v : Level) (t : Nat) (next : Phase) : (s.driveStep v t next).waited = s.waited := by
  unfold State.driveStep; split <;> simp
@[simp] theorem State.driveStep_transfers (s : State) (v : Level) (t : Nat) (next : Phase) : (s.driveStep v t next).transfers = s.transfers := by
  unfold State.driveStep; split <;> simp

@[simp] theorem State.endTrain_ln (s : State) : s.endTrain.ln = s.ln := by
  unfold State.endTrain; split <;> simp
@[simp] theorem State.endTrain_bi (s : State) : s.endTrain.bi = s.bi := by
  unfold State.endTrain; split <;> simp
@[simp] theorem State.endTrain_frame (s : State) : s.endTrain.frame = s.frame := by
  unfold State.endTrain; split <;> simp
@[simp] theorem State.endTrain_holds (s : State) : s.endTrain.holds = s.holds := by
  unfold State.endTrain; split <;> simp
@[simp] theorem State.endTrain_realisation (s : State) : s.endTrain.realisation = s.realisation := by
  unfold State.endTrain; split <;> simp
@[simp] theorem State.endTrain_requests (s : State) : s.endTrain.requests = s.requests := by
  unfold State.endTrain; split <;> simp
@[simp] theorem State.endTrain_txAnswers (s : State) : s.endTrain.txAnswers = s.txAnswers := by
  unfold State.endTrain; split <;> simp
@[simp] theorem State.endTrain_stream (s : State) : s.endTrain.stream = s.stream := by
  unfold State.endTrain; split <;> simp
@[simp] theorem State.endTrain_dest (s : State) : s.endTrain.dest = s.dest := by
  unfold State.endTrain; split <;> simp
@[simp] theorem State.endTrain_waits (s : State) : s.endTrain.waits = s.waits := by
  unfold State.endTrain; split <;> simp
@[simp] theorem State.endTrain_waited (s : State) : s.endTrain.waited = s.waited := by
  unfold State.endTrain; split <;> simp
@[simp] theorem State.endTrain_transfers (s : State) : s.endTrain.transfers = s.transfers := by
  unfold State.endTrain; split <;> simp

@[simp] theorem State.phaseStep_ln (s : State) : s.phaseStep.ln = s.ln := by
  unfold State.phaseStep; split <;> simp
@[simp] theorem State.phaseStep_bi (s : State) : s.phaseStep.bi = s.bi := by
  unfold State.phaseStep; split <;> simp
@[simp] theorem State.phaseStep_frame (s : State) : s.phaseStep.frame = s.frame := by
  unfold State.phaseStep; split <;> simp
@[simp] theorem State.phaseStep_holds (s : State) : s.phaseStep.holds = s.holds := by
  unfold State.phaseStep; split <;> simp
@[simp] theorem State.phaseStep_realisation (s : State) : s.phaseStep.realisation = s.realisation := by
  unfold State.phaseStep; split <;> simp
@[simp] theorem State.phaseStep_requests (s : State) : s.phaseStep.requests = s.requests := by
  unfold State.phaseStep; split <;> simp
@[simp] theorem State.phaseStep_txAnswers (s : State) : s.phaseStep.txAnswers = s.txAnswers := by
  unfold State.phaseStep; split <;> simp
@[simp] theorem State.phaseStep_stream (s : State) : s.phaseStep.stream = s.stream := by
  unfold State.phaseStep; split <;> simp
@[simp] theorem State.phaseStep_dest (s : State) : s.phaseStep.dest = s.dest := by
  unfold State.phaseStep; split <;> simp
@[simp] theorem State.phaseStep_waits (s : State) : s.phaseStep.waits = s.waits := by
  unfold State.phaseStep; split <;> simp
@[simp] theorem State.phaseStep_waited (s : State) : s.phaseStep.waited = s.waited := by
  unfold State.phaseStep; split <;> simp
@[simp] theorem State.phaseStep_transfers (s : State) : s.phaseStep.transfers = s.transfers := by
  unfold State.phaseStep; split <;> simp

/-! ## A frame in flight leaves alone the lines and the pulse sequencer (R117) -/

@[simp] theorem State.writeFrame_resetLine (s : State) (bytes : List Byte) : (s.writeFrame bytes).resetLine = s.resetLine := by
  unfold State.writeFrame; simp
@[simp] theorem State.writeFrame_wakeLine (s : State) (bytes : List Byte) : (s.writeFrame bytes).wakeLine = s.wakeLine := by
  unfold State.writeFrame; simp
@[simp] theorem State.writeFrame_ph (s : State) (bytes : List Byte) : (s.writeFrame bytes).ph = s.ph := by
  unfold State.writeFrame; simp
@[simp] theorem State.writeFrame_ln (s : State) (bytes : List Byte) : (s.writeFrame bytes).ln = s.ln := by
  unfold State.writeFrame; simp
@[simp] theorem State.writeFrame_tick (s : State) (bytes : List Byte) : (s.writeFrame bytes).tick = s.tick := by
  unfold State.writeFrame; simp
@[simp] theorem State.writeFrame_holds (s : State) (bytes : List Byte) : (s.writeFrame bytes).holds = s.holds := by
  unfold State.writeFrame; simp
@[simp] theorem State.writeFrame_realisation (s : State) (bytes : List Byte) : (s.writeFrame bytes).realisation = s.realisation := by
  unfold State.writeFrame; simp
@[simp] theorem State.writeFrame_requests (s : State) (bytes : List Byte) : (s.writeFrame bytes).requests = s.requests := by
  unfold State.writeFrame; simp

@[simp] theorem State.portStart_resetLine (s : State) (dest : Destination) (cmd : Byte) (pl : List Byte) : (s.portStart dest cmd pl).resetLine = s.resetLine := by
  unfold State.portStart; split <;> simp
@[simp] theorem State.portStart_wakeLine (s : State) (dest : Destination) (cmd : Byte) (pl : List Byte) : (s.portStart dest cmd pl).wakeLine = s.wakeLine := by
  unfold State.portStart; split <;> simp
@[simp] theorem State.portStart_ph (s : State) (dest : Destination) (cmd : Byte) (pl : List Byte) : (s.portStart dest cmd pl).ph = s.ph := by
  unfold State.portStart; split <;> simp
@[simp] theorem State.portStart_ln (s : State) (dest : Destination) (cmd : Byte) (pl : List Byte) : (s.portStart dest cmd pl).ln = s.ln := by
  unfold State.portStart; split <;> simp
@[simp] theorem State.portStart_tick (s : State) (dest : Destination) (cmd : Byte) (pl : List Byte) : (s.portStart dest cmd pl).tick = s.tick := by
  unfold State.portStart; split <;> simp
@[simp] theorem State.portStart_holds (s : State) (dest : Destination) (cmd : Byte) (pl : List Byte) : (s.portStart dest cmd pl).holds = s.holds := by
  unfold State.portStart; split <;> simp
@[simp] theorem State.portStart_realisation (s : State) (dest : Destination) (cmd : Byte) (pl : List Byte) : (s.portStart dest cmd pl).realisation = s.realisation := by
  unfold State.portStart; split <;> simp
@[simp] theorem State.portStart_requests (s : State) (dest : Destination) (cmd : Byte) (pl : List Byte) : (s.portStart dest cmd pl).requests = s.requests := by
  unfold State.portStart; split <;> simp

@[simp] theorem State.endEncode_resetLine (s : State) : s.endEncode.resetLine = s.resetLine := by
  unfold State.endEncode; split <;> simp
@[simp] theorem State.endEncode_wakeLine (s : State) : s.endEncode.wakeLine = s.wakeLine := by
  unfold State.endEncode; split <;> simp
@[simp] theorem State.endEncode_ph (s : State) : s.endEncode.ph = s.ph := by
  unfold State.endEncode; split <;> simp
@[simp] theorem State.endEncode_ln (s : State) : s.endEncode.ln = s.ln := by
  unfold State.endEncode; split <;> simp
@[simp] theorem State.endEncode_tick (s : State) : s.endEncode.tick = s.tick := by
  unfold State.endEncode; split <;> simp
@[simp] theorem State.endEncode_holds (s : State) : s.endEncode.holds = s.holds := by
  unfold State.endEncode; split <;> simp
@[simp] theorem State.endEncode_realisation (s : State) : s.endEncode.realisation = s.realisation := by
  unfold State.endEncode; split <;> simp
@[simp] theorem State.endEncode_requests (s : State) : s.endEncode.requests = s.requests := by
  unfold State.endEncode; split <;> simp

@[simp] theorem State.transfer_resetLine (s : State) : s.transfer.resetLine = s.resetLine := by
  unfold State.transfer; split <;> [skip; split] <;> simp
@[simp] theorem State.transfer_wakeLine (s : State) : s.transfer.wakeLine = s.wakeLine := by
  unfold State.transfer; split <;> [skip; split] <;> simp
@[simp] theorem State.transfer_ph (s : State) : s.transfer.ph = s.ph := by
  unfold State.transfer; split <;> [skip; split] <;> simp
@[simp] theorem State.transfer_ln (s : State) : s.transfer.ln = s.ln := by
  unfold State.transfer; split <;> [skip; split] <;> simp
@[simp] theorem State.transfer_tick (s : State) : s.transfer.tick = s.tick := by
  unfold State.transfer; split <;> [skip; split] <;> simp
@[simp] theorem State.transfer_holds (s : State) : s.transfer.holds = s.holds := by
  unfold State.transfer; split <;> [skip; split] <;> simp
@[simp] theorem State.transfer_realisation (s : State) : s.transfer.realisation = s.realisation := by
  unfold State.transfer; split <;> [skip; split] <;> simp
@[simp] theorem State.transfer_requests (s : State) : s.transfer.requests = s.requests := by
  unfold State.transfer; split <;> [skip; split] <;> simp

@[simp] theorem State.portStep_resetLine (s : State) : s.portStep.resetLine = s.resetLine := by
  unfold State.portStep; split <;> simp
@[simp] theorem State.portStep_wakeLine (s : State) : s.portStep.wakeLine = s.wakeLine := by
  unfold State.portStep; split <;> simp
@[simp] theorem State.portStep_ph (s : State) : s.portStep.ph = s.ph := by
  unfold State.portStep; split <;> simp
@[simp] theorem State.portStep_ln (s : State) : s.portStep.ln = s.ln := by
  unfold State.portStep; split <;> simp
@[simp] theorem State.portStep_tick (s : State) : s.portStep.tick = s.tick := by
  unfold State.portStep; split <;> simp
@[simp] theorem State.portStep_holds (s : State) : s.portStep.holds = s.holds := by
  unfold State.portStep; split <;> simp
@[simp] theorem State.portStep_realisation (s : State) : s.portStep.realisation = s.realisation := by
  unfold State.portStep; split <;> simp
@[simp] theorem State.portStep_requests (s : State) : s.portStep.requests = s.requests := by
  unfold State.portStep; split <;> simp

@[simp] theorem State.sendStep_resetLine (s : State) : s.sendStep.resetLine = s.resetLine := by
  unfold State.sendStep; split <;> simp
@[simp] theorem State.sendStep_wakeLine (s : State) : s.sendStep.wakeLine = s.wakeLine := by
  unfold State.sendStep; split <;> simp
@[simp] theorem State.sendStep_ph (s : State) : s.sendStep.ph = s.ph := by
  unfold State.sendStep; split <;> simp
@[simp] theorem State.sendStep_ln (s : State) : s.sendStep.ln = s.ln := by
  unfold State.sendStep; split <;> simp
@[simp] theorem State.sendStep_tick (s : State) : s.sendStep.tick = s.tick := by
  unfold State.sendStep; split <;> simp
@[simp] theorem State.sendStep_holds (s : State) : s.sendStep.holds = s.holds := by
  unfold State.sendStep; split <;> simp
@[simp] theorem State.sendStep_realisation (s : State) : s.sendStep.realisation = s.realisation := by
  unfold State.sendStep; split <;> simp
@[simp] theorem State.sendStep_requests (s : State) : s.sendStep.requests = s.requests := by
  unfold State.sendStep; split <;> simp

@[simp] theorem State.flightStep_resetLine (s : State) : s.flightStep.resetLine = s.resetLine := by
  unfold State.flightStep; split <;> simp
@[simp] theorem State.flightStep_wakeLine (s : State) : s.flightStep.wakeLine = s.wakeLine := by
  unfold State.flightStep; split <;> simp
@[simp] theorem State.flightStep_ph (s : State) : s.flightStep.ph = s.ph := by
  unfold State.flightStep; split <;> simp
@[simp] theorem State.flightStep_ln (s : State) : s.flightStep.ln = s.ln := by
  unfold State.flightStep; split <;> simp
@[simp] theorem State.flightStep_tick (s : State) : s.flightStep.tick = s.tick := by
  unfold State.flightStep; split <;> simp
@[simp] theorem State.flightStep_holds (s : State) : s.flightStep.holds = s.holds := by
  unfold State.flightStep; split <;> simp
@[simp] theorem State.flightStep_realisation (s : State) : s.flightStep.realisation = s.realisation := by
  unfold State.flightStep; split <;> simp
@[simp] theorem State.flightStep_requests (s : State) : s.flightStep.requests = s.requests := by
  unfold State.flightStep; split <;> simp

/-! ## The draws -/

theorem State.nextDelay_cons (s : State) {e : Nat} {es : List Nat} (h : s.delays = e :: es) : s.nextDelay = e := by
  simp [State.nextDelay, h]

theorem State.nextAnswer_cons (s : State) {a : TxAnswer} {as : List TxAnswer} (h : s.txAnswers = a :: as) :
    s.nextAnswer = a := by
  simp [State.nextAnswer, h]

end Sys2Proof.Machine
end

