-- ==== Sys2Proof/Laws/Ops.lean ====
section
/-! SUPPORT. One lemma for each shared operation that says everything it can do, for proofs to cite instead of unfolding. -/

namespace Sys2Proof.Machine

/-! ## Guards -/

theorem State.busy_eq_false {s : State} : s.busy = false ↔ s.ph = .idle ∧ s.frame = [] := by
  unfold State.busy
  cases s.frame <;> cases h : s.ph <;> simp

theorem State.busy_eq_true {s : State} : s.busy = true ↔ s.ph ≠ .idle ∨ s.frame ≠ [] := by
  have h := State.busy_eq_false (s := s)
  by_cases hb : s.busy = true
  · rw [hb] at h
    simp only [hb, true_iff]
    by_contra hn
    push Not at hn
    exact absurd (h.mpr hn) (by decide)
  · have hf := h.mp (Bool.eq_false_iff.mpr hb)
    simp [hb, hf.1, hf.2]

theorem State.ifIdle_idle {s : State} {k : Host.Outcome State Fault Refusal} (hp : s.ph = .idle) (hf : s.frame = []) :
    s.ifIdle k = k := by
  simp [State.ifIdle, State.busy_eq_false.mpr ⟨hp, hf⟩]

theorem State.ifIdle_busy {s : State} {k : Host.Outcome State Fault Refusal} (h : s.ph ≠ .idle ∨ s.frame ≠ []) :
    s.ifIdle k = .refused .busy := by
  simp [State.ifIdle, State.busy_eq_true.mpr h]

theorem State.ifIdle_next {s t : State} {k : Host.Outcome State Fault Refusal} (h : s.ifIdle k = .next t) :
    s.ph = .idle ∧ s.frame = [] ∧ k = .next t := by
  unfold State.ifIdle at h
  split at h
  · cases h
  · rename_i hb
    exact ⟨(State.busy_eq_false.mp (Bool.eq_false_iff.mpr hb)).1, (State.busy_eq_false.mp (Bool.eq_false_iff.mpr hb)).2, h⟩

theorem State.ifLegal_next {s t : State} {l : Line} {k : Host.Outcome State Fault Refusal} (h : s.ifLegal l k = .next t) :
    s.holds.legal l = true ∧ k = .next t := by
  unfold State.ifLegal at h
  split at h
  · exact ⟨‹_›, h⟩
  · cases h

theorem ifArgsFit_next {args : List Nat} {t : State} {k : Host.Outcome State Fault Refusal}
    (h : ifArgsFit args k = .next t) : argsFit args = true ∧ k = .next t := by
  unfold ifArgsFit at h
  split at h
  · exact ⟨‹_›, h⟩
  · cases h

theorem ifCharsFit_next {chars : List Nat} {t : State} {k : Host.Outcome State Fault Refusal}
    (h : ifCharsFit chars k = .next t) : charsFit chars = true ∧ k = .next t := by
  unfold ifCharsFit at h
  split at h
  · exact ⟨‹_›, h⟩
  · cases h

theorem argsFit_iff {args : List Nat} : argsFit args = true ↔ ∀ v ∈ args, v < 65536 := by
  simp [argsFit]

theorem charsFit_iff {chars : List Nat} : charsFit chars = true ↔ ∀ u ∈ chars, u < 256 := by
  simp [charsFit]

/-- A line's holds are legal exactly when each is at least its documented minimum (R9, R128). -/
theorem Holds.legal_iff {h : Holds} {l : Line} :
    h.legal l = true ↔ minT1 l ≤ h.t1 l ∧ minT2 l ≤ h.t2 l ∧ minT3 l ≤ h.t3 l := by
  simp [Holds.legal, and_assoc]

/-! ## The encoder -/

/-- What the encoder can answer (R90 to R92, R186). -/
theorem encodeFrame_cases (cmd : Byte) (pl : List Byte) :
    (Config.inCmdSet cmd = true ∧ pl.length ≤ Config.maxPayload ∧ encodeFrame cmd pl = .ok (buildFrame cmd pl)) ∨
    (Config.inCmdSet cmd = true ∧ Config.maxPayload < pl.length ∧
      encodeFrame cmd pl = .error (.payloadTooLarge pl.length)) ∨
    (Config.inCmdSet cmd = false ∧ encodeFrame cmd pl = .error (.invalidCommand cmd)) := by
  unfold encodeFrame
  by_cases hc : Config.inCmdSet cmd = true
  · by_cases hn : Config.maxPayload < pl.length
    · exact .inr (.inl ⟨hc, hn, by simp [hc, hn]⟩)
    · exact .inl ⟨hc, by omega, by simp [hc, hn]⟩
  · exact .inr (.inr ⟨by simpa using hc, by simp [hc]⟩)

/-! ## Issuing -/

/-- What an ENCODE can do (R90, R217). -/
theorem execEncode_next {cmd : Byte} {payload : Option (List Byte)} {s t : State} (h : execEncode cmd payload s = .next t) :
    s.ph = .idle ∧ s.frame = [] ∧
    ((s.realisation ≠ .ported ∧ t = s.encodeWhole cmd (payloadOf payload)) ∨
     (s.realisation = .ported ∧ t = s.portStart .caller cmd (payloadOf payload))) := by
  obtain ⟨hp, hf, hk⟩ := State.ifIdle_next h
  refine ⟨hp, hf, ?_⟩
  cases hr : s.realisation <;> simp only [hr] at hk <;> cases hk <;> simp

/-- What issuing a SEND can do (R110, R217). -/
theorem issueSend_next {cmd : Byte} {pl : List Byte} {s t : State} (h : issueSend cmd pl s = .next t) :
    s.ph = .idle ∧ s.frame = [] ∧
    ((s.realisation = .transaction ∧ t = s.sendWhole cmd pl) ∨
     ((s.realisation = .stepwise ∨ s.realisation = .clocked) ∧ t = s.sendStart cmd pl) ∨
     (s.realisation = .ported ∧ t = s.portStart .transport cmd pl)) := by
  obtain ⟨hp, hf, hk⟩ := State.ifIdle_next h
  refine ⟨hp, hf, ?_⟩
  cases hr : s.realisation <;> simp only [hr] at hk <;> cases hk <;> simp

/-- What issuing a pulse train can do (R125, R126, R217). -/
theorem issuePulse_next {l : Line} {s t : State} (h : issuePulse l s = .next t) :
    s.ph = .idle ∧ s.frame = [] ∧ s.holds.legal l = true ∧
    ((s.realisation = .transaction ∧ t = s.pulseWhole l) ∨ (s.realisation ≠ .transaction ∧ t = s.pulseStart l)) := by
  obtain ⟨hp, hf, hk⟩ := State.ifIdle_next h
  obtain ⟨hl, hk⟩ := State.ifLegal_next hk
  refine ⟨hp, hf, hl, ?_⟩
  cases hr : s.realisation <;> simp only [hr] at hk <;> cases hk <;> simp

/-! ## The steps of a pulse train -/

/-- A drive step where the clock keeps the holds (R132). -/
theorem State.driveStep_slept {s : State} (h : s.realisation.counted = false) (v : Level) (t : Nat) (next : Phase) :
    s.driveStep v t next = (s.gpioSet s.ln v).toPhase next 0 := if_neg (by simp [h])

/-- A drive step where the block counts the holds (R133). -/
theorem State.driveStep_counted {s : State} (h : s.realisation.counted = true) (v : Level) (t : Nat) (next : Phase) :
    s.driveStep v t next = (s.gpioAtEdge s.ln v).toPhase next (periods t) := if_pos h

/-- A hold where the clock keeps it (R132). -/
theorem State.holdStep_slept {s : State} (h : s.realisation.counted = false) (t : Nat) (next : Phase) :
    s.holdStep t next = (s.sleep t).toPhase next 0 := if_neg (by simp [h])

/-- A hold where the block counts it (R133). -/
theorem State.holdStep_counted {s : State} (h : s.realisation.counted = true) (t : Nat) (next : Phase) :
    s.holdStep t next = s.countStep t next := if_pos h

/-- A period that is not the hold's last leaves the phase and takes one from the counter (R133). -/
theorem State.countStep_more {s : State} (h : 1 < s.tick) (t : Nat) (next : Phase) :
    s.countStep t next = (s.elapse (periodTime t s.tick)).toPhase s.ph (s.tick - 1) := if_neg (by omega)

/-- The hold's last period ends it (R133). -/
theorem State.countStep_last {s : State} (h : s.tick ≤ 1) (t : Nat) (next : Phase) :
    s.countStep t next =
      ((s.elapse (periodTime t s.tick)).note (.sleep t (heldFor t))).toPhase next 0 := if_pos h

/-- Periods of the clock enough for `t` last at least `t` (R133). -/
theorem le_micros_ticks {f : Nat} (h : 0 < f) (t : Nat) : t ≤ micros f (ticks f t) := by
  rw [micros, Nat.le_div_iff_mul_le h, ticks]
  omega

/-- A hold of some length takes at least one period (R133). -/
theorem ticks_pos {f t : Nat} (hf : 0 < f) (ht : 0 < t) : 0 < ticks f t := by
  have := Nat.mul_pos ht hf
  rw [ticks]
  omega

theorem fClkHz_pos : 0 < Config.fClkHz := Nat.succ_pos _

/-- A counted hold lasts at least what was asked (R133). -/
theorem le_heldFor (t : Nat) : t ≤ heldFor t := by
  unfold heldFor clockTime
  exact le_micros_ticks fClkHz_pos t

/-- The clock's time never decreases (R33, R133). -/
theorem clockTime_mono {m n : Nat} (h : m ≤ n) : clockTime m ≤ clockTime n := by
  unfold clockTime micros
  exact Nat.div_le_div_right (Nat.mul_le_mul_right _ h)

@[simp] theorem clockTime_zero : clockTime 0 = 0 := by
  unfold clockTime micros
  simp

/-- The times of the periods of a hold add up to the time of the periods so far (R133). -/
theorem clockTime_add_periodTime {t k : Nat} (h : k < periods t) :
    clockTime k + periodTime t (periods t - k) = clockTime (k + 1) := by
  have : clockTime k ≤ clockTime (k + 1) := clockTime_mono (Nat.le_succ k)
  unfold periodTime
  rw [show periods t - (periods t - k) = k by omega]
  omega

theorem periods_pos {t : Nat} (ht : 0 < t) : 0 < periods t := ticks_pos fClkHz_pos ht

/-! ## The SEND -/

/-- What a SEND run whole leaves, by the encoder's answer. -/
theorem State.sendWhole_cases (s : State) (cmd : Byte) (pl : List Byte) :
    (encodeFrame cmd pl = .ok (buildFrame cmd pl) ∧ s.sendWhole cmd pl = s.writeFrame (buildFrame cmd pl)) ∨
    (∃ e, encodeFrame cmd pl = .error e ∧ s.sendWhole cmd pl = s.complete e.status none) := by
  obtain ⟨-, -, h⟩ | ⟨-, -, h⟩ | ⟨-, h⟩ := encodeFrame_cases cmd pl
  · exact .inl ⟨h, by simp [State.sendWhole, h]⟩
  · exact .inr ⟨_, h, by simp [State.sendWhole, h]⟩
  · exact .inr ⟨_, h, by simp [State.sendWhole, h]⟩

/-- What accepting a SEND byte by byte leaves, by the encoder's answer. -/
theorem State.sendStart_cases (s : State) (cmd : Byte) (pl : List Byte) :
    (encodeFrame cmd pl = .ok (buildFrame cmd pl) ∧
      s.sendStart cmd pl = { s with done := none, frame := buildFrame cmd pl, bi := 0 }) ∨
    (∃ e, encodeFrame cmd pl = .error e ∧ s.sendStart cmd pl = s.complete e.status none) := by
  obtain ⟨-, -, h⟩ | ⟨-, -, h⟩ | ⟨-, h⟩ := encodeFrame_cases cmd pl
  · exact .inl ⟨h, by simp [State.sendStart, h]⟩
  · exact .inr ⟨_, h, by simp [State.sendStart, h]⟩
  · exact .inr ⟨_, h, by simp [State.sendStart, h]⟩

/-! ## The ports of R36 -/

/-- The frame the ports put together is the encoder's (R93 to R97). -/
theorem sealFrame_header (cmd : Byte) (pl : List Byte) : sealFrame (frameHeader cmd pl ++ pl) = buildFrame cmd pl := by
  simp [sealFrame, frameHeader, buildFrame, frameWithoutChecksum, frameBody, memRead]

/-- What accepting an ENCODE or a SEND at the ports leaves, by the encoder's answer (R36, R223). -/
theorem State.portStart_cases (s : State) (dest : Destination) (cmd : Byte) (pl : List Byte) :
    (encodeFrame cmd pl = .ok (buildFrame cmd pl) ∧
      s.portStart dest cmd pl =
        State.sealWhole { s with done := none, frame := frameHeader cmd pl, stream := pl, bi := 0, dest := dest }) ∨
    (∃ e, encodeFrame cmd pl = .error e ∧ s.portStart dest cmd pl = s.complete e.status none) := by
  obtain ⟨-, -, h⟩ | ⟨-, -, h⟩ | ⟨-, h⟩ := encodeFrame_cases cmd pl
  · exact .inl ⟨h, by simp [State.portStart, h]⟩
  · exact .inr ⟨_, h, by simp [State.portStart, h]⟩
  · exact .inr ⟨_, h, by simp [State.portStart, h]⟩

/-- A cycle in which the other side of the port is not ready (R36). -/
theorem State.portStep_waits {s : State} (h : s.sideReady = false) : s.portStep = s.waitCycle := by
  simp [State.portStep, h]

/-- A cycle in which it is. -/
theorem State.portStep_ready {s : State} (h : s.sideReady = true) : s.portStep = s.transferCycle.transfer := by
  simp [State.portStep, h]

/-- What a transfer does: a payload byte arrives, a frame byte leaves, the last frame byte of an ENCODE ends it, or the
transport's answer ends a SEND (R36). -/
theorem State.transfer_cases (s : State) :
    (∃ b rest, s.stream = b :: rest ∧
      s.transfer = State.sealWhole { s with frame := s.frame ++ [b], stream := rest }) ∨
    (s.stream = [] ∧ s.bi < s.frame.length ∧ ¬ (s.dest = .caller ∧ s.bi + 1 = s.frame.length) ∧
      s.transfer = { s with bi := s.bi + 1 }) ∨
    (s.stream = [] ∧ s.bi < s.frame.length ∧ s.dest = .caller ∧ s.bi + 1 = s.frame.length ∧
      s.transfer = State.release (State.complete { s with bi := s.bi + 1 } .ok (some s.frame))) ∨
    (s.stream = [] ∧ s.frame.length ≤ s.bi ∧ s.transfer = (s.writeFrame s.frame).release) := by
  unfold State.transfer
  split
  · rename_i b rest h
    exact .inl ⟨b, rest, h, rfl⟩
  · rename_i h
    by_cases hb : s.bi < s.frame.length
    · rw [if_pos hb, State.endEncode]
      by_cases he : s.dest = .caller ∧ s.bi + 1 = s.frame.length
      · exact .inr (.inr (.inl ⟨h, hb, he.1, he.2, if_pos he⟩))
      · exact .inr (.inl ⟨h, hb, he, if_neg he⟩)
    · exact .inr (.inr (.inr ⟨h, by omega, if_neg hb⟩))

@[simp] theorem State.transferCycle_nextAnswer (s : State) : s.transferCycle.nextAnswer = s.nextAnswer := rfl

@[simp] theorem State.transferCycle_nextDelay (s : State) : s.transferCycle.nextDelay = s.nextDelay := rfl

/-- A step of the frame in flight makes no collaborator call, or the one TxWrite of the frame (R111). -/
theorem State.flightStep_hist (s : State) :
    (s.flightStep.hist = s.hist ∧ s.flightStep.now = s.now) ∨
    (s.flightStep.hist = s.hist ++ [.txWrite s.frame s.nextAnswer] ∧ s.flightStep.now = s.now + s.nextDelay) := by
  have hs : (s.sendStep.hist = s.hist ∧ s.sendStep.now = s.now) ∨
      (s.sendStep.hist = s.hist ++ [.txWrite s.frame s.nextAnswer] ∧ s.sendStep.now = s.now + s.nextDelay) := by
    unfold State.sendStep
    split
    · exact .inl ⟨rfl, rfl⟩
    · exact .inr ⟨rfl, rfl⟩
  have hp : (s.portStep.hist = s.hist ∧ s.portStep.now = s.now) ∨
      (s.portStep.hist = s.hist ++ [.txWrite s.frame s.nextAnswer] ∧ s.portStep.now = s.now + s.nextDelay) := by
    by_cases hb : s.sideReady = true
    · rw [State.portStep_ready hb]
      obtain ⟨b, rest, -, h⟩ | ⟨-, -, -, h⟩ | ⟨-, -, -, -, h⟩ | ⟨-, -, h⟩ := State.transfer_cases s.transferCycle
      · exact .inl ⟨by rw [h]; simp, by rw [h]; simp⟩
      · exact .inl ⟨by rw [h]; simp, by rw [h]; simp⟩
      · exact .inl ⟨by rw [h]; simp, by rw [h]; simp⟩
      · exact .inr ⟨by rw [h]; rfl, by rw [h]; rfl⟩
    · rw [State.portStep_waits (by simpa using hb)]
      exact .inl ⟨rfl, rfl⟩
  unfold State.flightStep
  cases s.realisation
  · exact hs
  · exact hs
  · exact hs
  · exact hp

end Sys2Proof.Machine
end

