-- ==== Sys2Proof/Laws/PerInstr.lean ====
section
/-! SUPPORT. Statements made for every instruction as syntax, one lemma per constructor. -/

/-- The operands of a well-formed instruction are within the ranges of R69 and R70. -/
def Sys2Proof.Laws.OperandRanges.Statement (i : Sys2Proof.Instr) : Prop :=
  Sys2Proof.WellFormed i = true → Sys2Proof.Safety.OperandsFit i

namespace Sys2Proof.Laws.OperandRanges
open Sys2Proof

theorem encode (cmd : Byte) (payload : Option (List Byte)) : Statement (.encode cmd payload) := fun _ => trivial
theorem send (cmd : Byte) (payload : Option (List Byte)) : Statement (.send cmd payload) := fun _ => trivial
theorem reset : Statement .reset := fun _ => trivial
theorem wake : Statement .wake := fun _ => trivial
theorem frame (cmd : Byte) (payload : List Byte) : Statement (.frame cmd payload) := fun _ => trivial
theorem clear : Statement .clear := fun _ => trivial
theorem update : Statement .update := fun _ => trivial
theorem sleep : Statement .sleep := fun _ => trivial

theorem wellFormedArgs_fit {args : List Nat} (h : wellFormedArgs args = true) : ∀ v ∈ args, v ≤ 65535 := by
  simpa [wellFormedArgs] using h

theorem wellFormedText_fit {args chars : List Nat} (h : (wellFormedArgs args && wellFormedChars chars) = true) :
    (∀ v ∈ args, v ≤ 65535) ∧ ∀ u ∈ chars, u ≤ 255 := by
  simpa [wellFormedArgs, wellFormedChars] using h

theorem setColor (args : List Nat) : Statement (.setColor args) := fun h => wellFormedArgs_fit h
theorem drawPixel (a b : Nat) : Statement (.drawPixel a b) := fun h =>
  ⟨wellFormedArgs_fit (args := [a, b]) h a (by simp), wellFormedArgs_fit (args := [a, b]) h b (by simp)⟩
theorem drawLine (args : List Nat) : Statement (.drawLine args) := fun h => wellFormedArgs_fit h
theorem fillRect (args : List Nat) : Statement (.fillRect args) := fun h => wellFormedArgs_fit h
theorem drawCircle (args : List Nat) : Statement (.drawCircle args) := fun h => wellFormedArgs_fit h
theorem fillCircle (args : List Nat) : Statement (.fillCircle args) := fun h => wellFormedArgs_fit h
theorem drawTriangle (args : List Nat) : Statement (.drawTriangle args) := fun h => wellFormedArgs_fit h
theorem fillTriangle (args : List Nat) : Statement (.fillTriangle args) := fun h => wellFormedArgs_fit h
theorem text (args chars : List Nat) : Statement (.text args chars) := fun h => wellFormedText_fit h
theorem drawBitmap (args name : List Nat) : Statement (.drawBitmap args name) := fun h => wellFormedText_fit h
theorem setMemoryMode (args : List Nat) : Statement (.setMemoryMode args) := fun h => wellFormedArgs_fit h
theorem setRotation (args : List Nat) : Statement (.setRotation args) := fun h => wellFormedArgs_fit h
theorem setFont (args : List Nat) : Statement (.setFont args) := fun h => wellFormedArgs_fit h

end Sys2Proof.Laws.OperandRanges
end

