-- ==== Sys2Proof/Laws/Step.lean ====
section
/-! SUPPORT. What `exec` and `step` can do: one inversion lemma each, from which invariants are derived. -/

namespace Sys2Proof.Machine

/-- Every instruction that answers a next state is an ENCODE, or issues the SEND of its pair, or issues a pulse train. -/
theorem exec_issues {i : Instr} {s t : State} (h : exec i s = .next t) :
    (∃ cmd payload, i = .encode cmd payload ∧ execEncode cmd payload s = .next t) ∨
    (∃ cmd pl, sendOperands i = some (cmd, pl) ∧ issueSend cmd pl s = .next t) ∨
    (i = .reset ∧ issuePulse .reset s = .next t) ∨ (i = .wake ∧ issuePulse .wake s = .next t) := by
  cases i with
  | encode cmd payload => exact .inl ⟨cmd, payload, rfl, h⟩
  | reset => exact .inr (.inr (.inl ⟨rfl, h⟩))
  | wake => exact .inr (.inr (.inr ⟨rfl, h⟩))
  | send cmd payload => exact .inr (.inl ⟨_, _, rfl, h⟩)
  | frame cmd payload => exact .inr (.inl ⟨_, _, rfl, h⟩)
  | clear => exact .inr (.inl ⟨_, _, rfl, h⟩)
  | update => exact .inr (.inl ⟨_, _, rfl, h⟩)
  | sleep => exact .inr (.inl ⟨_, _, rfl, h⟩)
  | drawPixel a b => exact .inr (.inl ⟨_, _, rfl, (ifArgsFit_next h).2⟩)
  | setColor args => exact .inr (.inl ⟨_, _, rfl, (ifArgsFit_next h).2⟩)
  | drawLine args => exact .inr (.inl ⟨_, _, rfl, (ifArgsFit_next h).2⟩)
  | fillRect args => exact .inr (.inl ⟨_, _, rfl, (ifArgsFit_next h).2⟩)
  | drawCircle args => exact .inr (.inl ⟨_, _, rfl, (ifArgsFit_next h).2⟩)
  | fillCircle args => exact .inr (.inl ⟨_, _, rfl, (ifArgsFit_next h).2⟩)
  | drawTriangle args => exact .inr (.inl ⟨_, _, rfl, (ifArgsFit_next h).2⟩)
  | fillTriangle args => exact .inr (.inl ⟨_, _, rfl, (ifArgsFit_next h).2⟩)
  | setMemoryMode args => exact .inr (.inl ⟨_, _, rfl, (ifArgsFit_next h).2⟩)
  | setRotation args => exact .inr (.inl ⟨_, _, rfl, (ifArgsFit_next h).2⟩)
  | setFont args => exact .inr (.inl ⟨_, _, rfl, (ifArgsFit_next h).2⟩)
  | text args chars => exact .inr (.inl ⟨_, _, rfl, (ifCharsFit_next (ifArgsFit_next h).2).2⟩)
  | drawBitmap args name => exact .inr (.inl ⟨_, _, rfl, (ifCharsFit_next (ifArgsFit_next h).2).2⟩)

/-- What `exec` can do when it answers a next state, with the state it answers. -/
theorem exec_next {i : Instr} {s t : State} (h : exec i s = .next t) :
    s.ph = .idle ∧ s.frame = [] ∧
    ((∃ cmd payload, i = .encode cmd payload ∧
        ((s.realisation ≠ .ported ∧ t = s.encodeWhole cmd (payloadOf payload)) ∨
         (s.realisation = .ported ∧ t = s.portStart .caller cmd (payloadOf payload)))) ∨
     (∃ cmd pl, sendOperands i = some (cmd, pl) ∧
        ((s.realisation = .transaction ∧ t = s.sendWhole cmd pl) ∨
         ((s.realisation = .stepwise ∨ s.realisation = .clocked) ∧ t = s.sendStart cmd pl) ∨
         (s.realisation = .ported ∧ t = s.portStart .transport cmd pl))) ∨
     (∃ l, (l = .reset ∧ i = .reset ∨ l = .wake ∧ i = .wake) ∧ s.holds.legal l = true ∧
        ((s.realisation = .transaction ∧ t = s.pulseWhole l) ∨
         (s.realisation ≠ .transaction ∧ t = s.pulseStart l)))) := by
  obtain ⟨cmd, payload, hi, h⟩ | ⟨cmd, pl, hi, h⟩ | ⟨hi, h⟩ | ⟨hi, h⟩ := exec_issues h
  · obtain ⟨hp, hf, ht⟩ := execEncode_next h
    exact ⟨hp, hf, .inl ⟨cmd, payload, hi, ht⟩⟩
  · obtain ⟨hp, hf, ht⟩ := issueSend_next h
    exact ⟨hp, hf, .inr (.inl ⟨cmd, pl, hi, ht⟩)⟩
  · obtain ⟨hp, hf, ht⟩ := issuePulse_next h
    exact ⟨hp, hf, .inr (.inr ⟨.reset, .inl ⟨rfl, hi⟩, ht⟩)⟩
  · obtain ⟨hp, hf, ht⟩ := issuePulse_next h
    exact ⟨hp, hf, .inr (.inr ⟨.wake, .inr ⟨rfl, hi⟩, ht⟩)⟩

/-- What `step` can do when it answers a next state. -/
theorem step_next {s t : State} (h : step s = .next t) :
    (s.ph ≠ .idle ∧ s.holds.legal s.ln = true ∧ t = s.phaseStep) ∨
    (s.ph = .idle ∧ s.frame ≠ [] ∧ t = s.flightStep) ∨
    (s.ph = .idle ∧ s.frame = [] ∧ s.requests = [] ∧ t = s.noDone) ∨
    (s.ph = .idle ∧ s.frame = [] ∧ ∃ w rest i, s.requests = w :: rest ∧ decode w = .ok i ∧
      exec i (s.accept rest) = .next t) := by
  unfold step at h
  split at h
  · rename_i hp
    obtain ⟨hl, hk⟩ := State.ifLegal_next h
    cases hk
    exact .inl ⟨hp, hl, rfl⟩
  · rename_i hp
    have hp' : s.ph = .idle := by simpa using hp
    split at h
    · rename_i hf
      cases h
      exact .inr (.inl ⟨hp', hf, rfl⟩)
    · rename_i hf
      have hf' : s.frame = [] := by simpa using hf
      unfold serve at h
      split at h
      · rename_i hr
        cases h
        exact .inr (.inr (.inl ⟨hp', hf', hr, rfl⟩))
      · rename_i w rest hr
        split at h
        · rename_i i hd
          exact .inr (.inr (.inr ⟨hp', hf', w, rest, i, hr, hd, h⟩))
        · cases h

end Sys2Proof.Machine
end

