-- ==== Sys2Proof/Tests/Slice0.lean ====
section
/-! SUPPORT. The model's own tests: expected values are the vectors of 95_test_vectors.md or hand calculation from the rules;
and for every statement with hypotheses a witness that meets them. -/

namespace Sys2Proof.Tests
open Sys2Proof Sys2Proof.Machine Sys2Proof.Safety

/-! ## Helpers -/

/-- The next state of an outcome, if there is one. -/
def nextOf (o : Host.Outcome State Fault Refusal) : Option State :=
  match o with
  | .next t => some t
  | .fault _ => none
  | .refused _ => none

/-- The refusal of an outcome, if there is one. -/
def refusalOf (o : Host.Outcome State Fault Refusal) : Option Refusal :=
  match o with
  | .next _ => none
  | .fault _ => none
  | .refused r => some r

/-- A state after construction whose transport will answer `a` and whose calls take no extra time (V46). -/
def ready (a : TxAnswer) : State := { State.reset with txAnswers := [a], delays := [0, 0, 0, 0, 0, 0] }

/-- The same, cut into steps. -/
def readyStepwise (a : TxAnswer) : State := { ready a with realisation := .stepwise }

/-- The frame of S1. -/
def clearFrame : List Byte := [0xA5, 0x00, 0x09, 0x2E, 0xCC, 0x33, 0xC3, 0x3C, 0x82]

/-- A SEND of the frame of S1 in flight, `k` bytes handed over. -/
def midSend (k : Nat) : State := { ready (.written 9) with frame := clearFrame, bi := k }

/-- A RESET in flight whose RESET_LINE has just been driven low for the first time (95 phase trace of V40). -/
def midPulse : State :=
  { ready (.written 9) with
    resetLine := some .low, ph := .hold1, ln := .reset, hist := [.gpioSet .reset .low] }

/-- The same with its holds counted by the block, `c` clock periods of the hold still to come. -/
def midCount (c : Nat) : State := { midPulse with realisation := .clocked, tick := c }

/-- A state after construction whose block counts its holds. -/
def readyClocked : State := { ready .error with realisation := .clocked }

/-- A state after construction that works through the ports of R36, the other side keeping it waiting as `waits` says. -/
def readyPorted (waits : List Nat) : State :=
  { ready (.written 10) with realisation := .ported, waits := waits }

/-- An idle state at a phase of the table of R132. -/
def atPhase (p : Phase) : State := { ready (.written 9) with ph := p }

/-! ## Ill-formed instructions are refused (one per check) -/

theorem test_illFormed_emptyPayload : WellFormed (.encode 0x2E (some [])) = false := by decide
theorem test_illFormed_longPayload (pl : List Byte) (h : pl.length = 65536) : WellFormed (.send 0x2E (some pl)) = false := by
  simp [WellFormed, wellFormedPayload, h]
theorem test_illFormed_frameLong (pl : List Byte) (h : pl.length = 504) : WellFormed (.frame 0x2E pl) = false := by
  simp [WellFormed, Config.maxPayload, Config.maxFrame, h]
theorem test_illFormed_frameCommand : WellFormed (.frame 0x71 [1]) = false := by decide
theorem test_illFormed_frameIsClear : WellFormed (.frame 0x2E []) = false := by decide
theorem test_illFormed_pixel : WellFormed (.drawPixel 65536 0) = false := by decide
theorem test_illFormed_args :
    ([Instr.setColor, .drawLine, .fillRect, .drawCircle, .fillCircle, .drawTriangle, .fillTriangle, .setMemoryMode,
      .setRotation, .setFont].map (fun c => WellFormed (c [1, 65536]))) = List.replicate 10 false := by decide
theorem test_illFormed_text : WellFormed (.text [65536] []) = false ∧ WellFormed (.text [] [256]) = false := by decide
theorem test_illFormed_bitmap : WellFormed (.drawBitmap [65536] []) = false ∧ WellFormed (.drawBitmap [] [256]) = false := by
  decide
theorem test_wellFormed_edges :
    WellFormed (.drawPixel 65535 65535) = true ∧ WellFormed (.text [65535] [255]) = true ∧
      WellFormed (.frame 0x2E [0x81]) = true ∧ WellFormed (.encode 0xFF none) = true := by decide

/-! ## Decoding words written out from the spec's encodings -/

/-- req_op 00 to 11 (R75). -/
theorem test_decode_requests :
    (decode (.request 0b00 0x2E 2 [0x12, 0x34])).toOption = some (.encode 0x2E (some [0x12, 0x34])) ∧
    (decode (.request 0b01 0x2E 0 [])).toOption = some (.send 0x2E none) ∧
    (decode (.request 0b10 0xFF 7 [])).toOption = some .reset ∧
    (decode (.request 0b11 0xFF 7 [])).toOption = some .wake := by decide

/-- V8: the frame of (2E, 01 02 03 04); V11: the trailer inside the payload. -/
theorem test_decode_frame :
    (decode (.frame [0xA5, 0x00, 0x0D, 0x2E, 1, 2, 3, 4, 0xCC, 0x33, 0xC3, 0x3C, 0x82])).toOption =
      some (.frame 0x2E [1, 2, 3, 4]) ∧
    (decode (.frame [0xA5, 0x00, 0x0D, 0x2E, 0xCC, 0x33, 0xC3, 0x3C, 0xCC, 0x33, 0xC3, 0x3C, 0x86])).toOption =
      some (.frame 0x2E [0xCC, 0x33, 0xC3, 0x3C]) := by decide

/-- S1, and the opcode table's match of the row `clear`. -/
theorem test_decode_clear :
    (decode (.frame clearFrame)).toOption = some .clear ∧
    decodeTableWord 72 0xA500092ECC33C33C82 = some .clear ∧
    (decode (.call .clear [] [])).toOption = some .clear := by decide

theorem test_decode_calls :
    [decode (.call .update [] []), decode (.call .setColor [0, 3] []), decode (.call .drawPixel [0x0102, 0x0304] []),
      decode (.call .drawLine [0, 0, 799, 599] []), decode (.call .fillRect [1] []), decode (.call .drawCircle [1, 2, 3] []),
      decode (.call .fillCircle [4] []), decode (.call .drawTriangle [5] []), decode (.call .fillTriangle [6] []),
      decode (.call .text [10, 20] [0x48, 0x69]), decode (.call .drawBitmap [1] [0x41]), decode (.call .setMemoryMode [1] []),
      decode (.call .setRotation [2] []), decode (.call .setFont [3] []), decode (.call .sleep [] [])].map Except.toOption =
    [some .update, some (.setColor [0, 3]), some (.drawPixel 0x0102 0x0304), some (.drawLine [0, 0, 799, 599]),
      some (.fillRect [1]), some (.drawCircle [1, 2, 3]), some (.fillCircle [4]), some (.drawTriangle [5]),
      some (.fillTriangle [6]), some (.text [10, 20] [0x48, 0x69]), some (.drawBitmap [1] [0x41]), some (.setMemoryMode [1]),
      some (.setRotation [2]), some (.setFont [3]), some .sleep] := by decide

/-- The reason for which words are no instruction. -/
def decodeErrorOf (w : Words) : Option DecodeError :=
  match decode w with
  | .ok _ => none
  | .error e => some e

theorem test_decode_refused :
    decodeErrorOf (.request 0b00 0x2E 2 [1]) = some .payloadCount ∧
    decodeErrorOf (.frame [0xA5, 0x00, 0x08, 0x2E, 0xCC, 0x33, 0xC3, 0x3C]) = some .frameShort ∧
    decodeErrorOf (.frame [0xA4, 0x00, 0x09, 0x2E, 0xCC, 0x33, 0xC3, 0x3C, 0x83]) = some .badStart ∧
    decodeErrorOf (.frame [0xA5, 0x09, 0x00, 0x2E, 0xCC, 0x33, 0xC3, 0x3C, 0x82]) = some .badLength ∧
    decodeErrorOf (.frame [0xA5, 0x00, 0x09, 0x2E, 0xCC, 0x33, 0x3C, 0xC3, 0x82]) = some .badTrailer ∧
    decodeErrorOf (.frame [0xA5, 0x00, 0x09, 0x2E, 0xCC, 0x33, 0xC3, 0x3C, 0x83]) = some .badChecksum ∧
    decodeErrorOf (.call .drawPixel [1] []) = some .callShape := by decide

/-- `n = 504` (R73): one byte more than the longest frame. -/
theorem test_decode_frameLong : decodeErrorOf (.frame (frameWords 0x2E (List.replicate 504 0))) = some .frameLong := by
  decide +kernel

/-! ## ENCODE (95 T1, T2) -/

/-- The bytes an encoder call answers. -/
def bytesOfEncode (cmd : Byte) (pl : List Byte) : Option (List Byte) := (encodeFrame cmd pl).toOption

theorem test_encode_v5 : bytesOfEncode 0x2E [0x00] = some [0xA5, 0x00, 0x0A, 0x2E, 0x00, 0xCC, 0x33, 0xC3, 0x3C, 0x81] := by
  decide
theorem test_encode_v7 : bytesOfEncode 0x2E [0x81] = some [0xA5, 0x00, 0x0A, 0x2E, 0x81, 0xCC, 0x33, 0xC3, 0x3C, 0x00] := by
  decide
/-- V12: a whole frame as payload. -/
theorem test_encode_v12 : (bytesOfEncode 0x2E clearFrame).map List.getLast? = some (some 0x99) := by decide
/-- V14: the carry into LEN_HI. -/
theorem test_encode_v14 :
    (bytesOfEncode 0x2E (List.replicate 247 0)).map (fun f => (f.take 4, f.getLast?)) =
      some ([0xA5, 0x01, 0x00, 0x2E], some 0x8A) := by decide +kernel
/-- V16: the largest accepted payload. -/
theorem test_encode_v16 :
    (bytesOfEncode 0x2E (List.replicate 503 0)).map (fun f => (f.length, f.take 4, f.getLast?)) =
      some (512, [0xA5, 0x02, 0x00, 0x2E], some 0x89) := by decide +kernel
/-- V1, P3: the frame returned, and no event. -/
theorem test_exec_encode :
    (nextOf (exec (.encode 0x2E none) (ready .error))).map (fun t => (t.done, t.hist)) =
      some (some ⟨.ok, some clearFrame⟩, []) := by decide
/-- V17, V23: 504 bytes; both checks fail. -/
theorem test_exec_encode_errors :
    (nextOf (exec (.encode 0x2E (some (List.replicate 504 0))) (ready .error))).map State.done =
      some (some ⟨.payloadTooLarge 504, none⟩) ∧
    (nextOf (exec (.encode 0xFF (some (List.replicate 504 0))) (ready .error))).map State.done =
      some (some ⟨.invalidCommand 0xFF, none⟩) := by decide +kernel

/-! ## SEND (95 T3) -/

/-- V30. -/
theorem test_send_v30 :
    (nextOf (exec (.send 0x2E none) (ready (.written 9)))).map (fun t => (t.hist, t.done)) =
      some ([.txWrite clearFrame (.written 9)], some ⟨.ok, none⟩) := by decide
/-- V31, V35, V36: a short write, an error, a count too large. -/
theorem test_send_transportErrors :
    [TxAnswer.written 8, .error, .written 10].map
      (fun a => (nextOf (exec (.send 0x2E none) (ready a))).map (fun t => (t.hist, t.done))) =
    [TxAnswer.written 8, .error, .written 10].map
      (fun a => some ([Event.txWrite clearFrame a], some ⟨.transportError a, none⟩)) := by decide
/-- V34: no write. -/
theorem test_send_v34 :
    (nextOf (exec (.send 0xFF none) (ready (.written 9)))).map (fun t => (t.hist, t.done)) =
      some ([], some ⟨.invalidCommand 0xFF, none⟩) := by decide
/-- V8 as FRAME. -/
theorem test_exec_frame :
    (nextOf (exec (.frame 0x2E [1, 2, 3, 4]) (ready (.written 13)))).map (fun t => (t.hist, t.done)) =
      some ([.txWrite [0xA5, 0x00, 0x0D, 0x2E, 1, 2, 3, 4, 0xCC, 0x33, 0xC3, 0x3C, 0x82] (.written 13)], some ⟨.ok, none⟩) := by
  decide
/-- R26: cut into bytes, the frame is in flight and no write has happened; after the ninth byte the write completes it. -/
theorem test_send_stepwise :
    (nextOf (exec (.send 0x2E none) (readyStepwise (.written 9)))).map (fun t => (t.frame, t.bi, t.hist, t.done)) =
      some (clearFrame, 0, [], none) ∧
    (nextOf (runSteps 10 { readyStepwise (.written 9) with frame := clearFrame })).map (fun t => (t.frame, t.bi, t.done)) =
      some ([], 0, some ⟨.ok, none⟩) := by decide

/-! ## RESET and WAKE (95 T4) -/

/-- V46. -/
theorem test_reset_v46 :
    (nextOf (exec .reset (ready .error))).map (fun t => (t.hist, t.now, t.resetLine, t.wakeLine)) =
      some ([.gpioSet .reset .low, .sleep 1000 1000, .gpioSet .reset .high, .sleep 1000 1000, .gpioSet .reset .low,
        .sleep 2000000 2000000], 2002000, some .low, none) := by decide
/-- V47. -/
theorem test_wake_v47 :
    (nextOf (exec .wake (ready .error))).map (fun t => (t.hist, t.now, t.resetLine, t.wakeLine)) =
      some ([.gpioSet .wake .low, .sleep 1000 1000, .gpioSet .wake .high, .sleep 1000 1000, .gpioSet .wake .low,
        .sleep 10000 10000], 12000, none, some .low) := by decide
/-- 93 U14: T_RST_LOW2 = 1999999 is no legal configuration; WAKE does not mind. -/
theorem test_reset_illegalHold :
    refusalOf (exec .reset { ready .error with holds := { Holds.default with rstLow2 := 1999999 } }) =
      some .holdBelowMinimum ∧
    (nextOf (exec .wake { ready .error with holds := { Holds.default with rstLow2 := 1999999 } })).isSome = true := by decide
/-- 95 phase trace of V40, after step 3. -/
theorem test_phase_trace :
    (nextOf (runSteps 3 { readyStepwise .error with ph := .drive1, ln := .reset })).map
      (fun t => (t.ph.index, t.resetLine, t.wakeLine)) = some (4, some .high, none) := by decide
/-- The table of 95 section 2.4, and the 21 and 27 bits of R133. -/
theorem test_ticks :
    ticks 32768 1000 = 33 ∧ ticks 32768 2000000 = 65536 ∧ ticks 32768 10000 = 328 ∧ ticks 50000000 2000000 = 100000000 := by
  decide
/-- R133: the counter counts down one at a step, and the hold is over at the step that finds it at 1. -/
theorem test_count :
    (nextOf (step (midCount 2))).map (fun t => (t.ph, t.tick, t.hist.length, t.resetLine)) =
      some (.hold1, 1, 1, some .low) ∧
    (nextOf (step (midCount 1))).map (fun t => (t.ph, t.tick, t.hist.length, t.resetLine)) =
      some (.drive2, 0, 2, some .low) := by decide
/-- The table of 95 section 2.4: 33 periods at 32768 Hz are 1007 microseconds. -/
theorem test_micros : micros 32768 33 = 1007 := by decide
theorem test_counterBits : counterBits 2000000 = 21 ∧ counterBits 100000000 = 27 := by decide

/-! ## The typed operations (95 T5) -/

/-- V50. -/
theorem test_clear_v50 :
    (nextOf (exec .clear (ready (.written 9)))).map (fun t => (t.hist, t.done)) =
      some ([.txWrite clearFrame (.written 9)], some ⟨.ok, none⟩) := by decide
/-- V51, V53, V54, V56: the payloads. -/
theorem test_pixel_payload :
    (sendOperands (.drawPixel 0x0102 0x0304)).map Prod.snd = some [0x01, 0x02, 0x03, 0x04] ∧
    (sendOperands (.drawPixel 65535 65535)).map Prod.snd = some [0xFF, 0xFF, 0xFF, 0xFF] ∧
    (sendOperands (.drawPixel 799 599)).map Prod.snd = some [0x03, 0x1F, 0x02, 0x57] := by decide
/-- V55. -/
theorem test_pixel_v55 : refusalOf (exec (.drawPixel 65536 0) (ready .error)) = some .argumentTooWide := by decide
/-- V63, V64, V65: the layouts, without the command bytes. -/
theorem test_layouts :
    (sendOperands (.drawLine [0, 0, 799, 599])).map Prod.snd = some [0, 0, 0, 0, 0x03, 0x1F, 0x02, 0x57] ∧
    (sendOperands (.text [10, 20] [0x48, 0x69])).map Prod.snd = some [0x00, 0x0A, 0x00, 0x14, 0x48, 0x69] ∧
    (sendOperands (.text [0, 0] [0xE9])).map Prod.snd = some [0, 0, 0, 0, 0xE9] := by decide
theorem test_text_notLatin1 : refusalOf (exec (.text [0, 0] [0x41, 0x100]) (ready .error)) = some .characterNotLatin1 := by
  decide
/-- Every instruction of the typed layer completes from a ready state. -/
theorem test_typed_complete :
    [Instr.update, .setColor [0, 3], .drawPixel 1 2, .drawLine [1], .fillRect [1], .drawCircle [1], .fillCircle [1],
      .drawTriangle [1], .fillTriangle [1], .text [1] [2], .drawBitmap [1] [2], .setMemoryMode [0], .setRotation [0],
      .setFont [1], .sleep].map (fun i => (nextOf (exec i (ready (.written 9)))).isSome) = List.replicate 15 true := by decide

/-! ## The step -/

/-- The words of a row of the table run as the first instruction after construction. -/
theorem test_first_instruction :
    (nextOf (step (State.reset.withFetchWord 8 2))).map State.resetLine = some (some .low) ∧
    (nextOf (step (State.reset.withFetchWord 72 0xA500092ECC33C33C82))).map (fun t => t.hist.length) = some 1 ∧
    (nextOf (step (State.reset.withFetchWord 8 0))).isSome = true ∧
    (nextOf (step (State.reset.withFetchWord 8 1))).isSome = true := by decide
/-- P4, its first two operations: the RESET line stays 0 during the WAKE. -/
theorem test_two_operations :
    (nextOf (runSteps 2 { State.reset with requests := [.request 0b10 0 0 [], .request 0b11 0 0 []] })).map
      (fun t => (t.hist.length, t.resetLine, t.wakeLine, t.requests)) = some (12, some .low, some .low, []) := by decide
/-- R217: while a pulse train is in flight the request waits. -/
theorem test_request_waits :
    (nextOf (step { midPulse with requests := [.request 0b11 0 0 []] })).map State.requests =
      some [.request 0b11 0 0 []] ∧
    refusalOf (exec .wake midPulse) = some .busy := by decide
theorem test_undecodable :
    refusalOf (step { State.reset with requests := [.frame [0xA5]] }) = some (.undecodable .frameShort) := by decide
/-- R36: the frame port in the middle of a SEND and at its last byte. -/
theorem test_frame_port :
    ((midSend 3).frmValid, (midSend 3).frmData, (midSend 3).frmLast) = (true, some 0x2E, false) ∧
    ((midSend 8).frmValid, (midSend 8).frmData, (midSend 8).frmLast) = (true, some 0x82, true) := by decide

/-- R36, V7: the payload byte 81 arrives in the second cycle and closes the frame. -/
theorem test_payload_port :
    (nextOf (exec (.send 0x2E (some [0x81])) (readyPorted [1, 0]))).map
      (fun t => (t.frame, t.plReady, t.plData, t.plValid, t.frmValid)) =
      some ([0xA5, 0x00, 0x0A, 0x2E], true, some 0x81, false, false) ∧
    (nextOf (exec (.send 0x2E (some [0x81])) (readyPorted [1, 0]))).map
      (fun t => (nextOf (runSteps 2 t)).map (fun u => (u.frame, u.plReady, u.frmValid, u.frmData))) =
      some (some ([0xA5, 0x00, 0x0A, 0x2E, 0x81, 0xCC, 0x33, 0xC3, 0x3C, 0x00], false, true, some 0xA5)) := by decide
/-- R36, S1: an ENCODE hands its nine bytes to the caller and completes with the last, with no event. -/
theorem test_encode_port :
    (nextOf (exec (.encode 0x2E none) (readyPorted (List.replicate 9 0)))).map
      (fun t => (nextOf (runSteps 9 t)).map (fun u => (u.done, u.hist, u.busy))) =
      some (some (some ⟨.ok, some clearFrame⟩, [], false)) := by decide
/-- R36, R111, R112: a SEND waits for the transport's answer after its last byte. -/
theorem test_send_port :
    (nextOf (exec (.send 0x2E none) (readyPorted (List.replicate 9 0 ++ [1])))).map
      (fun t => ((nextOf (runSteps 10 t)).map (fun u => (u.awaitsAnswer, u.txResultValid, u.hist.length)),
        (nextOf (runSteps 11 t)).map (fun u => (u.awaitsAnswer, u.hist.length, u.doneStatus)))) =
      some (some (true, true, 0), some (false, 1, some 0b11)) := by decide

/-! ## Witnesses: for every statement with hypotheses, a state and operands that meet them -/

/-- FrameByteMap, FrameXorIsZero, LengthFieldIsLength, EncoderIsInjective, ProducedFrameDecodes: at both ends of the range. -/
theorem witness_encoded :
    (∃ bytes, encodeFrame 0x2E [] = .ok bytes) ∧ ∀ pl, pl.length = 503 → ∃ bytes, encodeFrame 0x2E pl = .ok bytes := by
  refine ⟨⟨_, rfl⟩, fun pl hl => ⟨buildFrame 0x2E pl, ?_⟩⟩
  obtain ⟨-, -, h⟩ | ⟨-, h, -⟩ | ⟨h, -⟩ := encodeFrame_cases 0x2E pl
  · exact h
  · simp only [Config.maxPayload, Config.maxFrame] at h
    omega
  · exact absurd h (by decide)
/-- ChecksumFromFields: the case of no payload. -/
theorem witness_encoded_empty : encodeFrame 0x2E [] = .ok clearFrame ∧ ([] : List Byte) = [] := ⟨rfl, rfl⟩
/-- CommandCheckComesFirst: its three clauses at their edges. -/
theorem witness_commandCheck :
    0x70 < (0x71 : Byte).toNat ∧ (List.replicate 503 (0 : Byte)).length ≤ 503 ∧ 503 < (List.replicate 504 (0 : Byte)).length := by
  simp only [List.length_replicate]
  decide
/-- FieldReadsBack: the second argument, at the top of its range. -/
theorem witness_field :
    (∃ bytes, encodeFrame 0x2E ([0, 65535].flatMap be16) = .ok bytes) ∧ [0, 65535][1]? = some 65535 ∧ 65535 ≤ 65535 :=
  ⟨⟨_, rfl⟩, rfl, Nat.le_refl _⟩
/-- EncodeResult, EncodeReadsNoState, StepWaitsForRequest. -/
theorem witness_idle : (ready .error).ph = .idle ∧ (ready .error).frame = [] ∧ (ready .error).requests = [] ∧
    (ready .error).realisation ≠ .ported := by decide
/-- DecodeAfterEncode. -/
theorem witness_wellFormed : WellFormed (.text [65535] [255]) = true ∧ WellFormed (.frame 0x2E [0x81]) = true := ⟨rfl, rfl⟩
/-- DecodedFrameIsExact. -/
theorem witness_decoded : decode (.frame clearFrame) = .ok .clear := by decide
/-- RequestCodes. -/
theorem witness_request : ([0x12, 0x34] : List Byte).length = (2 : Word16).toNat ∧ ([0x12, 0x34] : List Byte) ≠ [] := by decide
/-- StepRunsDecoded. -/
theorem witness_fetch :
    ∃ w rest i, ({ State.reset with requests := [.call .clear [] []] } : State).requests = w :: rest ∧ decode w = .ok i ∧
      State.reset.ph = .idle ∧ State.reset.frame = [] := ⟨_, _, _, rfl, rfl, rfl, rfl⟩
/-- BusyStepLeavesPort, BusyStartsNothing, LinesAreIndependent: a pulse train in flight (the other line is WAKE), and a SEND in
flight. -/
theorem witness_busy :
    midPulse.ph ≠ .idle ∧ Line.wake ≠ midPulse.ln ∧ (nextOf (step midPulse)).isSome = true ∧ (midSend 9).ph = .idle ∧
      (midSend 9).frame ≠ [] ∧ (nextOf (step (midSend 9))).isSome = true := by decide
/-- SendResult, FrameResult, SendOkIffWhole, ClearResult, UpdateSleepResult. -/
theorem witness_ready : Ready (ready (.written 9)) := ⟨rfl, rfl, rfl⟩
/-- DrawPixelResult: both clauses at the edge. -/
theorem witness_pixel : 65535 ≤ 65535 ∧ Ready (ready (.written 13)) ∧ (65535 < 65536 ∨ 65535 < 0) :=
  ⟨Nat.le_refl _, ⟨rfl, rfl, rfl⟩, .inl (by decide)⟩
/-- DrawingResult, TextBitmapResult, SettersResult. -/
theorem witness_args : (∀ v ∈ [0, 65535], v ≤ 65535) ∧ (∀ u ∈ [0, 255], u ≤ 255) ∧ Ready (ready (.written 13)) :=
  ⟨by decide, by decide, ⟨rfl, rfl, rfl⟩⟩
/-- TypedIsSend, TypedNeverInvalidCommand, SendTouchesNoLine. -/
theorem witness_typed :
    OperandsFit (.drawPixel 65535 0) ∧ isTyped (.drawPixel 65535 0) = true ∧
      sendOperands (.drawPixel 65535 0) = some (Config.cmdDrawPixel, [0xFF, 0xFF, 0x00, 0x00]) ∧
      (nextOf (exec (.drawPixel 65535 0) (ready (.written 13)))).isSome = true := by
  refine ⟨⟨by decide, by decide⟩, rfl, rfl, by decide⟩
/-- TypedOperandsRefused: its clauses at the edge. -/
theorem witness_refused :
    ¬ OperandsFit (.drawLine [65536]) ∧ (∃ v ∈ [65536], 65535 < v) ∧ (∀ v ∈ [65535], v ≤ 65535) ∧ ∃ u ∈ [256], 255 < u :=
  ⟨fun h => absurd (h 65536 (by decide)) (by decide), ⟨65536, by decide, by decide⟩, by decide, ⟨256, by decide, by decide⟩⟩
/-- SendIsIndependent: two states that differ in their lines and history. -/
theorem witness_independent :
    Ready (ready (.written 9)) ∧ Ready { ready (.written 9) with wakeLine := some .low, hist := [.gpioSet .wake .low] } ∧
      (ready (.written 9)).nextAnswer =
        ({ ready (.written 9) with wakeLine := some .low, hist := [.gpioSet .wake .low] } : State).nextAnswer :=
  ⟨⟨rfl, rfl, rfl⟩, ⟨rfl, rfl, rfl⟩, rfl⟩
/-- ErrorsArePrecise: one execution for each of its three clauses. -/
theorem witness_errors :
    (nextOf (exec (.send 0xFF none) (ready .error))).map State.done = some (some ⟨.invalidCommand 0xFF, none⟩) ∧
    (nextOf (exec (.send 0x2E (some (List.replicate 504 0))) (ready .error))).map State.done =
      some (some ⟨.payloadTooLarge 504, none⟩) ∧
    (nextOf (exec .clear (ready .error))).map State.done = some (some ⟨.transportError .error, none⟩) := by decide +kernel
/-- StepwiseSendAgrees: accepted and not accepted operands. -/
theorem witness_stepwise_send :
    OperandsFit (.send 0x2E none) ∧ sendOperands (.send 0x2E none) = some (0x2E, []) ∧
      Idle (readyStepwise (.written 9)) ∧ (readyStepwise (.written 9)).realisation = .stepwise ∧ Accepted 0x2E [] ∧
      sendOperands (.send 0xFF none) = some (0xFF, []) ∧ ¬ Accepted 0xFF [] :=
  ⟨trivial, rfl, ⟨rfl, rfl, rfl, rfl⟩, rfl, ⟨rfl, by decide⟩, rfl, fun h => absurd h.1 (by decide)⟩
/-- BytesLeaveInOrder: the last byte. -/
theorem witness_bytes :
    (midSend 0).ph = .idle ∧ (midSend 0).frame ≠ [] ∧ (midSend 0).bi = 0 ∧ (midSend 0).stream = [] ∧
      (midSend 0).realisation ≠ .ported ∧ 8 < (midSend 0).frame.length := by decide
/-- PulseResult, PulseTakesAtLeast: the least legal holds. -/
theorem witness_pulse :
    Ready (ready .error) ∧ 1000 ≤ (ready .error).holds.rstLow1 ∧ 1000 ≤ (ready .error).holds.rstHigh ∧
      2000000 ≤ (ready .error).holds.rstLow2 ∧ 1000 ≤ (ready .error).holds.wakeLow1 ∧
      1000 ≤ (ready .error).holds.wakeHigh ∧ 10000 ≤ (ready .error).holds.wakeLow2 :=
  ⟨⟨rfl, rfl, rfl⟩, Nat.le_refl _, Nat.le_refl _, Nat.le_refl _, Nat.le_refl _, Nat.le_refl _, Nat.le_refl _⟩
theorem witness_pulse_runs :
    (nextOf (exec .reset (ready .error))).isSome = true ∧ (nextOf (exec .wake (ready .error))).isSome = true := by decide
/-- IllegalHoldsRefused: one below each of the six minima, in turn. -/
theorem witness_illegalHolds :
    [({ Holds.default with rstLow1 := 999 } : Holds), { Holds.default with rstHigh := 999 },
      { Holds.default with rstLow2 := 1999999 }].map (fun h => h.legal .reset) = [false, false, false] ∧
    [({ Holds.default with wakeLow1 := 999 } : Holds), { Holds.default with wakeHigh := 999 },
      { Holds.default with wakeLow2 := 9999 }].map (fun h => h.legal .wake) = [false, false, false] := by decide
/-- PhaseTable: a state at each phase. -/
theorem witness_phases :
    ∀ p ∈ [Phase.drive1, .hold1, .drive2, .hold2, .drive3, .hold3],
      (atPhase p).ph = p ∧ (atPhase p).holds.legal (atPhase p).ln = true := by decide
/-- StepwisePulseAgrees. -/
theorem witness_stepwise_pulse :
    Idle (readyStepwise .error) ∧ (readyStepwise .error).realisation = .stepwise ∧
      (readyStepwise .error).holds.legal .reset = true ∧ (readyStepwise .error).holds.legal .wake = true :=
  ⟨⟨rfl, rfl, rfl, rfl⟩, rfl, rfl, rfl⟩
/-- PulseTakesAtLeast: a stepwise RESET and a stepwise WAKE run to their end. -/
theorem witness_stepwise_pulse_runs :
    (nextOf (exec .reset (readyStepwise .error))).map (fun t => (nextOf (runSteps 6 t)).isSome) = some true ∧
    (nextOf (exec .wake (readyStepwise .error))).map (fun t => (nextOf (runSteps 6 t)).isSome) = some true := by
  decide
/-- PortedEncodeAgrees, PortedSendAgrees, EncodeReadsNoState: a state at the ports, accepted and not accepted operands. -/
theorem witness_ported :
    PortIdle (readyPorted [2]) ∧ (readyPorted [2]).realisation = .ported ∧
      OperandsFit (.send 0x2E none) ∧ sendOperands (.send 0x2E none) = some (0x2E, []) ∧ Accepted 0x2E [] ∧
      ¬ Accepted 0xFF [] :=
  ⟨⟨⟨rfl, rfl, rfl, rfl⟩, rfl, rfl, rfl⟩, rfl, trivial, rfl, ⟨rfl, by decide⟩, fun h => absurd h.1 (by decide)⟩
/-- PortCycle: a payload byte awaited, a frame byte at the port, and an ENCODE's last one, with the other side ready. -/
theorem witness_port_cycle :
    (nextOf (exec (.send 0x2E (some [0x81])) (readyPorted [0]))).map
      (fun t => (t.ph, t.frame.isEmpty, t.stream, t.plValid)) = some (.idle, false, [0x81], true) ∧
    (nextOf (exec (.encode 0x2E none) (readyPorted (List.replicate 9 0)))).map
      (fun t => [7, 8].map fun k => (nextOf (runSteps k t)).map fun u => (u.stream, u.dest == .caller, u.frmReady, u.frmLast)) =
      some [some ([], true, true, false), some ([], true, true, true)] := by decide
/-- InvKeptByStep, CompletionAlwaysComes: a pulse train in flight meets the invariant and steps. -/
theorem witness_invariant :
    BlockInv midPulse ∧ midPulse.busy = true ∧ (nextOf (step midPulse)).isSome = true := by
  refine ⟨⟨by decide, by decide, by decide, by decide, by decide, ⟨Nat.zero_le _, by decide⟩, by decide, by decide, ?_, ?_,
    rfl⟩, by decide⟩
  · intro l
    cases l <;> decide
  · intro l
    cases l <;> rfl
/-- HoldCountsPeriods, HoldTimeInPeriods: a drive of each of the three holds. -/
theorem witness_hold_counts :
    ∀ row ∈ holdRows readyClocked, row.1 ∈ [Phase.drive1, .drive2, .drive3] ∧
      { readyClocked with ph := row.1 }.realisation.counted = true ∧
      { readyClocked with ph := row.1 }.holds.legal { readyClocked with ph := row.1 }.ln = true ∧
      row ∈ holdRows { readyClocked with ph := row.1 } := by decide
/-- ClockedPulseAgrees, and the clause of PulseTakesAtLeast on counted holds. -/
theorem witness_clocked_pulse :
    Idle readyClocked ∧ readyClocked.realisation.counted = true ∧ readyClocked.holds.legal .reset = true ∧
      readyClocked.holds.legal .wake = true := ⟨⟨rfl, rfl, rfl, rfl⟩, rfl, rfl, rfl⟩
/-- InvKeptByStep, CounterFits: a counted hold in its last period meets the invariant, with holds none longer than
T_RST_LOW2. -/
theorem witness_counted_invariant :
    BlockInv (midCount 1) ∧ (midCount 1).holds.rstLow1 ≤ (midCount 1).holds.rstLow2 ∧
      (midCount 1).holds.rstHigh ≤ (midCount 1).holds.rstLow2 ∧ (midCount 1).holds.wakeLow1 ≤ (midCount 1).holds.rstLow2 ∧
      (midCount 1).holds.wakeHigh ≤ (midCount 1).holds.rstLow2 ∧ (midCount 1).holds.wakeLow2 ≤ (midCount 1).holds.rstLow2 := by
  have h : counterBound (midCount 1) = periodsOfHold (midCount 1) := if_pos rfl
  have h1 : periodsOfHold (midCount 1) = periods ((midCount 1).holds.t1 .reset) := rfl
  refine ⟨⟨by decide, by decide, by decide, by decide, by decide, ⟨Nat.zero_le _, by decide⟩, by decide, ?_, ?_, ?_, rfl⟩,
    by decide⟩
  · rw [h, h1]
    exact ⟨periods_pos (by decide), fun _ => Nat.one_pos⟩
  · intro l
    cases l <;> decide
  · intro l
    cases l <;> rfl
/-- EveryWriteIsAFrame, LevelsAreWholeTrains: a history with a pulse train and a frame. -/
theorem witness_history :
    followAll [.gpioSet .reset .low, .sleep 1000 1000, .gpioSet .reset .high, .sleep 1000 1000, .gpioSet .reset .low,
      .sleep 2000000 2000000, .txWrite clearFrame (.written 9)] = some .between := by decide
/-- HistoryOnlyGrows, ParametersAreStatic. -/
theorem witness_step : (nextOf (step { State.reset with requests := [.call .clear [] []] })).isSome = true := by decide
/-- OneCompletionPerRequest, StatusCodes: a RESET and an ENCODE run whole complete. -/
theorem witness_complete :
    (ready .error).realisation = .transaction ∧
    (nextOf (exec .reset (ready .error))).map State.done = some (some ⟨.ok, none⟩) ∧
    ((nextOf (exec (.encode 0x2E none) (ready .error))).map State.doneValid) = some true := by decide

end Sys2Proof.Tests
end

section
/-! ## The frames of the encoder, read back -/

namespace Sys2Proof.Machine
open Sys2Proof

/-- A 16-bit value sent high byte first is read back whole (R43, R69). -/
theorem fromBe16_hi8_lo8 {n : Nat} (h : n < 65536) : fromBe16 (hi8 n) (lo8 n) = n := by
  simp only [fromBe16, hi8, lo8, BitVec.toNat_ofNat]
  omega

/-- A frame by its head and the rest that the decoder takes apart (R51). -/
theorem buildFrame_eq_cons (cmd : Byte) (pl : List Byte) :
    buildFrame cmd pl = Config.startByte :: hi8 (pl.length + 9) :: lo8 (pl.length + 9) :: cmd ::
      (pl ++ (Config.trailer ++ [xorFold (frameWithoutChecksum cmd pl)])) := by
  simp [buildFrame, frameWithoutChecksum, frameLen, frameBody, memRead, Config.fixedOverhead]

/-- LEN of a frame (R67). -/
@[simp] theorem buildFrame_length (cmd : Byte) (pl : List Byte) : (buildFrame cmd pl).length = pl.length + 9 := by
  simp [buildFrame_eq_cons, Config.trailer]

/-- The bytes that the checksum covers (R66). -/
theorem buildFrame_take (cmd : Byte) (pl : List Byte) :
    (buildFrame cmd pl).take (pl.length + 8) = frameWithoutChecksum cmd pl := by
  have h := buildFrame_length cmd pl
  rw [buildFrame, List.length_append, List.length_singleton] at h
  exact List.take_left' (by omega)

/-- The decoder takes a frame of the encoder apart into its operands (R51, R78). -/
theorem decodeFrame_buildFrame {cmd : Byte} {pl : List Byte} (h : pl.length ≤ Config.maxPayload) :
    decodeFrame (buildFrame cmd pl) = .ok (decodeFields cmd pl) := by
  have hlen := buildFrame_length cmd pl
  have htake := buildFrame_take cmd pl
  rw [buildFrame_eq_cons] at hlen htake ⊢
  generalize hs : xorFold (frameWithoutChecksum cmd pl) = sum at *
  have hrest : (pl ++ (Config.trailer ++ [sum])).length = pl.length + 5 := by simp [Config.trailer]
  have htrailer : (Config.trailer ++ [sum]).take 4 = Config.trailer := rfl
  have hsum : (Config.trailer ++ [sum]).drop 4 = [sum] := rfl
  have hmax : pl.length + 9 ≤ Config.maxFrame := Nat.add_le_of_le_sub (by decide) h
  have hfits : pl.length + 9 < 65536 := lt_of_le_of_lt hmax (by decide)
  unfold decodeFrame
  simp only [hlen, hrest, fromBe16_hi8_lo8 hfits, Nat.add_sub_cancel, Nat.add_succ_sub_one, htake, List.drop_left,
    List.take_left, List.drop_length_add_append, htrailer, hsum]
  simp [Nat.not_lt.mpr hmax, hs]

/-- Every frame the encoder produces passes a receiver's check (R60, R78). -/
theorem isFrame_of_encodeFrame {cmd : Byte} {pl bytes : List Byte} (h : encodeFrame cmd pl = .ok bytes) :
    Safety.isFrame bytes = true := by
  obtain ⟨hc, hn, he⟩ | ⟨-, -, he⟩ | ⟨-, he⟩ := encodeFrame_cases cmd pl
  · obtain rfl : buildFrame cmd pl = bytes := Except.ok.inj (he.symm.trans h)
    rw [Safety.isFrame, decodeFrame_buildFrame hn, decodeFields]
    split_ifs
    · rfl
    · exact hc
  · exact absurd (he.symm.trans h) (by simp)
  · exact absurd (he.symm.trans h) (by simp)

end Sys2Proof.Machine
end

section
/-! ## The observer of the history, one event further -/

namespace Sys2Proof.Safety
open Sys2Proof Sys2Proof.Machine

theorem followAll_concat (h : List Event) (ev : Event) :
    followAll (h ++ [ev]) = (followAll h).bind (follow · ev) := by
  simp [followAll]

theorem levelsOn_append (l : Line) (h g : List Event) : levelsOn l (h ++ g) = levelsOn l h ++ levelsOn l g := by
  simp [levelsOn]

@[simp] theorem levelsOn_gpioSet_self (l : Line) (v : Level) : levelsOn l [.gpioSet l v] = [v] := by
  simp [levelsOn]

theorem levelsOn_gpioSet_other {l m : Line} (v : Level) (h : m ≠ l) : levelsOn m [.gpioSet l v] = [] := by
  simp [levelsOn, h.symm]

@[simp] theorem levelsOn_sleep (l : Line) (d e : Nat) : levelsOn l [.sleep d e] = [] := rfl

@[simp] theorem levelsOn_txWrite (l : Line) (bytes : List Byte) (a : TxAnswer) : levelsOn l [.txWrite bytes a] = [] := rfl

/-! ## The rows of R132 around a hold -/

/-- Outside the holds the hold counter is zero (log 6). -/
theorem counterBound_eq_zero {s : State} (hp : s.ph = .idle ∨ s.ph = .drive1 ∨ s.ph = .drive2 ∨ s.ph = .drive3) :
    counterBound s = 0 := by
  obtain h | h | h | h := hp <;> simp [counterBound, periodsOfHold, h]

section
variable {s t : State} {p q r : Phase} {v : Level} {d e : Nat}

theorem holdRows_cases (hrow : (p, q, r, v, d) ∈ holdRows s) :
    (p = .drive1 ∧ q = .hold1 ∧ r = .drive2 ∧ v = .low ∧ d = s.holds.t1 s.ln) ∨
    (p = .drive2 ∧ q = .hold2 ∧ r = .drive3 ∧ v = .high ∧ d = s.holds.t2 s.ln) ∨
    (p = .drive3 ∧ q = .hold3 ∧ r = .idle ∧ v = .low ∧ d = s.holds.t3 s.ln) := by
  simpa [holdRows] using hrow

/-- The observer goes on with the drive of a row (R127). -/
theorem follow_drive (hrow : (p, q, r, v, d) ∈ holdRows s) :
    follow (progressOf p s.ln) (.gpioSet s.ln v) = some (progressOf q s.ln) := by
  obtain ⟨rfl, rfl, -, rfl, -⟩ | ⟨rfl, rfl, -, rfl, -⟩ | ⟨rfl, rfl, -, rfl, -⟩ := holdRows_cases hrow <;>
    simp [follow, progressOf]

/-- The observer goes on with the hold of a row, where it is legal and no shorter than asked (R128). -/
theorem follow_hold (hrow : (p, q, r, v, d) ∈ holdRows s) (hl : s.holds.legal s.ln = true) (he : d ≤ e) :
    follow (progressOf q s.ln) (.sleep d e) = some (progressOf r s.ln) := by
  obtain ⟨h1, h2, h3⟩ := Holds.legal_iff.mp hl
  obtain ⟨-, rfl, rfl, -, rfl⟩ | ⟨-, rfl, rfl, -, rfl⟩ | ⟨-, rfl, rfl, -, rfl⟩ := holdRows_cases hrow
  · exact if_pos ⟨h1, he⟩
  · exact if_pos ⟨h2, he⟩
  · exact if_pos ⟨h3, he⟩

/-- A row drives the line high exactly if its hold is hold 2. -/
theorem high_iff_hold2 (hrow : (p, q, r, v, d) ∈ holdRows s) : v = .high ↔ q = .hold2 ∨ q = .drive3 := by
  obtain ⟨-, rfl, -, rfl, -⟩ | ⟨-, rfl, -, rfl, -⟩ | ⟨-, rfl, -, rfl, -⟩ := holdRows_cases hrow <;> decide

/-- The line is high after a hold exactly if it is during the hold. -/
theorem hold2_iff_after (hrow : (p, q, r, v, d) ∈ holdRows s) :
    (q = .hold2 ∨ q = .drive3) ↔ (r = .hold2 ∨ r = .drive3) := by
  obtain ⟨-, rfl, rfl, -, -⟩ | ⟨-, rfl, rfl, -, -⟩ | ⟨-, rfl, rfl, -, -⟩ := holdRows_cases hrow <;> decide

/-- The bound of the hold counter in the hold of a row (R133). -/
theorem counterBound_hold (hrow : (p, q, r, v, d) ∈ holdRows s) (hp : t.ph = q) (hh : t.holds = s.holds)
    (hln : t.ln = s.ln) : counterBound t = if t.realisation.counted then periods d else 0 := by
  obtain ⟨-, rfl, -, -, rfl⟩ | ⟨-, rfl, -, -, rfl⟩ | ⟨-, rfl, -, -, rfl⟩ := holdRows_cases hrow <;>
    simp [counterBound, periodsOfHold, hp, hh, hln]

/-- After the hold of a row comes a drive, or the train is over. -/
theorem counterBound_after (hrow : (p, q, r, v, d) ∈ holdRows s) (hp : t.ph = r) : counterBound t = 0 := by
  obtain ⟨-, -, rfl, -, -⟩ | ⟨-, -, rfl, -, -⟩ | ⟨-, -, rfl, -, -⟩ := holdRows_cases hrow <;>
    exact counterBound_eq_zero (by simp [hp])

end

end Sys2Proof.Safety
end

section
/-! ## The rows of R132 as steps -/

namespace Sys2Proof.Machine

/-- A step of a hold stays in it or goes on to the next phase. -/
theorem State.holdStep_ph (s : State) (t : Nat) (next : Phase) :
    (s.holdStep t next).ph = s.ph ∨ (s.holdStep t next).ph = next := by
  unfold State.holdStep State.countStep
  split_ifs
  · exact .inr rfl
  · exact .inl rfl
  · exact .inr rfl

/-- Only the end of the third hold is the end of the train (R132). -/
theorem State.endTrain_holdStep {s : State} {t : Nat} {next : Phase} (hp : s.ph ≠ .idle) (hn : next ≠ .idle) :
    (s.holdStep t next).endTrain = s.holdStep t next :=
  if_neg (by obtain h | h := s.holdStep_ph t next <;> rw [h] <;> assumption)

/-- A step of a pulse train drives the level of a row or is in the hold of one (R132). -/
theorem State.phaseStep_row {s : State} (hp : s.ph ≠ .idle) :
    ∃ p q r v d, (p, q, r, v, d) ∈ Safety.holdRows s ∧
      ((s.ph = p ∧ s.phaseStep = s.driveStep v d q) ∨ (s.ph = q ∧ s.phaseStep = (s.holdStep d r).endTrain)) := by
  unfold State.phaseStep
  cases h : s.ph with
  | idle => exact absurd h hp
  | drive1 => exact ⟨_, _, _, _, _, .head _, .inl ⟨rfl, rfl⟩⟩
  | hold1 => exact ⟨_, _, _, _, _, .head _, .inr ⟨rfl, (State.endTrain_holdStep hp (by decide)).symm⟩⟩
  | drive2 => exact ⟨_, _, _, _, _, .tail _ (.head _), .inl ⟨rfl, rfl⟩⟩
  | hold2 => exact ⟨_, _, _, _, _, .tail _ (.head _), .inr ⟨rfl, (State.endTrain_holdStep hp (by decide)).symm⟩⟩
  | drive3 => exact ⟨_, _, _, _, _, .tail _ (.tail _ (.head _)), .inl ⟨rfl, rfl⟩⟩
  | hold3 => exact ⟨_, _, _, _, _, .tail _ (.tail _ (.head _)), .inr ⟨rfl, rfl⟩⟩

@[simp] theorem State.pulseWhole_ph (s : State) (l : Line) : (s.pulseWhole l).ph = s.ph := by
  simp [State.pulseWhole, State.pulseCalls]
@[simp] theorem State.pulseWhole_ln (s : State) (l : Line) : (s.pulseWhole l).ln = l := by
  simp [State.pulseWhole, State.pulseCalls]
@[simp] theorem State.pulseWhole_tick (s : State) (l : Line) : (s.pulseWhole l).tick = s.tick := by
  simp [State.pulseWhole, State.pulseCalls]
@[simp] theorem State.pulseWhole_frame (s : State) (l : Line) : (s.pulseWhole l).frame = s.frame := by
  simp [State.pulseWhole, State.pulseCalls]
@[simp] theorem State.pulseWhole_bi (s : State) (l : Line) : (s.pulseWhole l).bi = s.bi := by
  simp [State.pulseWhole, State.pulseCalls]
@[simp] theorem State.pulseWhole_stream (s : State) (l : Line) : (s.pulseWhole l).stream = s.stream := by
  simp [State.pulseWhole, State.pulseCalls]
@[simp] theorem State.pulseWhole_dest (s : State) (l : Line) : (s.pulseWhole l).dest = s.dest := by
  simp [State.pulseWhole, State.pulseCalls]
@[simp] theorem State.pulseWhole_waited (s : State) (l : Line) : (s.pulseWhole l).waited = s.waited := by
  simp [State.pulseWhole, State.pulseCalls]

theorem State.line_congr {s t : State} (hr : t.resetLine = s.resetLine) (hw : t.wakeLine = s.wakeLine) (l : Line) :
    t.line l = s.line l := by
  cases l
  · exact hr
  · exact hw

end Sys2Proof.Machine
end

section
/-! ## The lines and the history during a pulse train -/

namespace Sys2Proof.Safety
open Sys2Proof Sys2Proof.Machine

/-- The clauses of `BlockInv` on the lines and the history, with the phase and the active line as parameters, so that they can
be followed call by call through a pulse train that runs whole in one step. -/
structure LinesInv (p : Phase) (l : Line) (s : State) : Prop where
  high : ∀ m, s.line m = some .high ↔ m = l ∧ (p = .hold2 ∨ p = .drive3)
  last : ∀ m, s.line m = (levelsOn m s.hist).getLast?
  order : followAll s.hist = some (progressOf p l)

namespace LinesInv
variable {s t u : State} {p q r : Phase} {l m : Line} {v : Level} {d e : Nat}

theorem of_same (h : LinesInv p l s) (hr : t.resetLine = s.resetLine := by simp)
    (hw : t.wakeLine = s.wakeLine := by simp) (hh : t.hist = s.hist := by simp) : LinesInv p l t := by
  have hline := State.line_congr hr hw
  exact ⟨fun m => hline m ▸ h.high m, fun m => by rw [hline, hh, h.last], hh ▸ h.order⟩

/-- Accepting a pulse train on any line makes no call (row 0 of R132). -/
theorem start (h : LinesInv .idle l s) : LinesInv .drive1 m s :=
  ⟨fun k => by simpa using h.high k, h.last, h.order⟩

/-- The drive of a row (R127, R137). -/
theorem drive (hrow : (p, q, r, v, d) ∈ holdRows s) (h : LinesInv p s.ln u) (hself : t.line s.ln = some v)
    (hother : ∀ m, m ≠ s.ln → t.line m = u.line m) (hh : t.hist = u.hist ++ [.gpioSet s.ln v]) :
    LinesInv q s.ln t where
  high m := by
    by_cases hm : m = s.ln
    · subst hm
      rw [hself, Option.some.injEq, high_iff_hold2 hrow]
      simp
    · rw [hother m hm, h.high m]
      simp [hm]
  last m := by
    rw [hh, levelsOn_append]
    by_cases hm : m = s.ln
    · subst hm
      simp [hself]
    · rw [levelsOn_gpioSet_other v hm, List.append_nil, hother m hm, h.last m]
  order := by rw [hh, followAll_concat, h.order, Option.bind_some, follow_drive hrow]

theorem gpioSet (hrow : (p, q, r, v, d) ∈ holdRows s) (h : LinesInv p s.ln u) : LinesInv q s.ln (u.gpioSet s.ln v) :=
  h.drive hrow (by simp) (fun _ => u.line_gpioSet_other v) (by simp)

theorem gpioAtEdge (hrow : (p, q, r, v, d) ∈ holdRows s) (h : LinesInv p s.ln u) :
    LinesInv q s.ln (u.gpioAtEdge s.ln v) :=
  h.drive hrow (by simp) (fun _ => u.line_gpioAtEdge_other v) (by simp)

/-- The end of the hold of a row (R128). -/
theorem hold (hrow : (p, q, r, v, d) ∈ holdRows s) (hl : s.holds.legal s.ln = true) (he : d ≤ e) (h : LinesInv q s.ln u)
    (hr : t.resetLine = u.resetLine := by simp) (hw : t.wakeLine = u.wakeLine := by simp)
    (hh : t.hist = u.hist ++ [.sleep d e] := by simp) : LinesInv r s.ln t where
  high m := by rw [State.line_congr hr hw, h.high m, hold2_iff_after hrow]
  last m := by rw [State.line_congr hr hw, hh, levelsOn_append, levelsOn_sleep, List.append_nil, h.last m]
  order := by rw [hh, followAll_concat, h.order, Option.bind_some, follow_hold hrow hl he]

theorem sleep (hrow : (p, q, r, v, d) ∈ holdRows s) (hl : s.holds.legal s.ln = true) (h : LinesInv q s.ln u) :
    LinesInv r s.ln (u.sleep d) :=
  h.hold hrow hl (Nat.le_add_right d u.nextDelay)

/-- The six calls of a whole pulse train (R125, R126). -/
theorem pulseWhole (h : LinesInv .idle l s) (hl : s.holds.legal m = true) : LinesInv .idle m (s.pulseWhole m) := by
  have hl' : (s.latch m).holds.legal (s.latch m).ln = true := hl
  have row1 : _ ∈ holdRows (s.latch m) := .head _
  have row2 : _ ∈ holdRows (s.latch m) := .tail _ (.head _)
  have row3 : _ ∈ holdRows (s.latch m) := .tail _ (.tail _ (.head _))
  have h1 := ((h.of_same (t := s.latch m)).start.gpioSet row1).sleep row1 hl'
  have h2 := (h1.gpioSet row2).sleep row2 hl'
  have h3 := (h2.gpioSet row3).sleep row3 hl'
  exact h3.of_same rfl rfl rfl

/-- A write of a frame between two operations (R111). -/
theorem writeFrame {bytes : List Byte} (h : LinesInv .idle l s) (hf : isFrame bytes = true) :
    LinesInv .idle l (s.writeFrame bytes) where
  high m := by rw [State.line_congr (s := s) (by simp) (by simp), h.high m]
  last m := by
    rw [State.line_congr (s := s) (by simp) (by simp), h.last m]
    simp [State.writeFrame, levelsOn_append]
  order := by
    simp [State.writeFrame, followAll_concat, h.order, progressOf, follow, hf]

end LinesInv

end Sys2Proof.Safety
end

section
/-! ## The invariant in its two parts: the pulse sequencer, and the frame with its ports -/

namespace Sys2Proof.Safety
open Sys2Proof Sys2Proof.Machine

/-- The clauses of `BlockInv` on the pulse sequencer, its lines and the history. -/
structure SequencerInv (s : State) : Prop where
  legal : s.ph ≠ .idle → s.holds.legal s.ln = true
  counter : s.tick ≤ counterBound s ∧ (0 < counterBound s → 0 < s.tick)
  lines : LinesInv s.ph s.ln s

/-- No frame is in flight, and the ports are as every operation leaves them. -/
structure NoFrame (s : State) : Prop where
  frame : s.frame = []
  bi : s.bi = 0
  stream : s.stream = []
  dest : s.dest = .transport
  waited : s.waited = 0

/-- A frame is in flight, at the ports only where the block works through them. -/
structure FrameInFlight (s : State) : Prop where
  idle : s.ph = .idle
  frame : s.frame ≠ []
  inOrder : isFrame (wholeFrame s) = true
  bi : s.bi ≤ s.frame.length
  unported : s.realisation ≠ .ported → s.stream = [] ∧ s.dest = .transport ∧ s.waited = 0
  awaited : s.stream ≠ [] → s.bi = 0
  forCaller : s.dest = .caller → s.bi < s.frame.length
  waiting : s.waited ≤ s.nextWait

theorem dest_eq_transport {d : Destination} (h : d ≠ .caller) : d = .transport := by
  cases d
  · exact absurd rfl h
  · rfl

variable {s t : State}

theorem BlockInv.sequencer (h : BlockInv s) : SequencerInv s :=
  ⟨h.legalHolds, h.counter, h.highOnlyInHold2, h.lastDriven, h.historyInOrder⟩

theorem BlockInv.noFrame (h : BlockInv s) (hf : s.frame = []) : NoFrame s where
  frame := hf
  bi := by simpa [hf] using h.byteIndex
  stream := by
    by_contra hs
    obtain ⟨-, hne, -⟩ := h.awaited hs
    exact hne hf
  dest := dest_eq_transport fun hd => by simpa [hf] using (h.forCaller hd).2
  waited := by
    obtain ⟨-, hwaits⟩ := h.waiting
    by_contra hw
    exact (hwaits hw).2 hf

theorem BlockInv.frameInFlight (h : BlockInv s) (hf : s.frame ≠ []) : FrameInFlight s where
  idle := by
    by_contra hp
    exact hf (h.oneInFlight hp)
  frame := hf
  inOrder := h.frameInOrder hf
  bi := h.byteIndex
  unported hr := by
    obtain ⟨-, hwaits⟩ := h.waiting
    refine ⟨?_, dest_eq_transport fun hd => hr (h.forCaller hd).1, ?_⟩
    · by_contra hs
      exact hr (h.awaited hs).1
    · by_contra hw
      exact hr (hwaits hw).1
  awaited hs := by
    obtain ⟨-, -, hbi⟩ := h.awaited hs
    exact hbi
  forCaller hd := (h.forCaller hd).2
  waiting := h.waiting.1

theorem NoFrame.blockInv (h : NoFrame s) (hs : SequencerInv s) : BlockInv s where
  oneInFlight _ := h.frame
  byteIndex := by simp [h.bi]
  frameInOrder hf := absurd h.frame hf
  awaited hs := absurd h.stream hs
  forCaller hd := by simp [h.dest] at hd
  waiting := by simp [h.waited]
  legalHolds := hs.legal
  counter := hs.counter
  highOnlyInHold2 := hs.lines.high
  lastDriven := hs.lines.last
  historyInOrder := hs.lines.order

theorem FrameInFlight.blockInv (h : FrameInFlight s) (hs : SequencerInv s) : BlockInv s where
  oneInFlight hp := absurd h.idle hp
  byteIndex := h.bi
  frameInOrder _ := h.inOrder
  awaited hs := by
    refine ⟨?_, h.frame, h.awaited hs⟩
    by_contra hr
    obtain ⟨hstream, -, -⟩ := h.unported hr
    exact hs hstream
  forCaller hd := by
    refine ⟨?_, h.forCaller hd⟩
    by_contra hr
    obtain ⟨-, hdest, -⟩ := h.unported hr
    simp [hdest] at hd
  waiting := by
    refine ⟨h.waiting, fun hw => ⟨?_, h.frame⟩⟩
    by_contra hr
    obtain ⟨-, -, hwaited⟩ := h.unported hr
    exact hw hwaited
  legalHolds := hs.legal
  counter := hs.counter
  highOnlyInHold2 := hs.lines.high
  lastDriven := hs.lines.last
  historyInOrder := hs.lines.order

/-! ## What changes neither part -/

theorem NoFrame.of_same (h : NoFrame s) (hf : t.frame = s.frame := by simp) (hb : t.bi = s.bi := by simp)
    (hs : t.stream = s.stream := by simp) (hd : t.dest = s.dest := by simp) (hw : t.waited = s.waited := by simp) :
    NoFrame t :=
  ⟨hf.trans h.frame, hb.trans h.bi, hs.trans h.stream, hd.trans h.dest, hw.trans h.waited⟩

theorem SequencerInv.of_idle (hp : t.ph = .idle) (ht : t.tick = 0) (hl : LinesInv .idle t.ln t) : SequencerInv t :=
  ⟨fun h => absurd hp h, by simp [counterBound_eq_zero (.inl hp), ht], hp ▸ hl⟩

/-- Between two operations the hold counter is zero (log 6). -/
theorem SequencerInv.tick_eq_zero (h : SequencerInv s) (hp : s.ph = .idle) : s.tick = 0 := by
  simpa [counterBound_eq_zero (.inl hp)] using h.counter

theorem SequencerInv.idle_lines (h : SequencerInv s) (hp : s.ph = .idle) : LinesInv .idle s.ln s := hp ▸ h.lines

/-- An idle block keeps this part where only the frame, its ports, the completions and the inputs change. -/
theorem SequencerInv.of_same (h : SequencerInv s) (hp : s.ph = .idle) (hph : t.ph = s.ph := by simp)
    (hln : t.ln = s.ln := by simp) (ht : t.tick = s.tick := by simp) (hr : t.resetLine = s.resetLine := by simp)
    (hw : t.wakeLine = s.wakeLine := by simp) (hh : t.hist = s.hist := by simp) : SequencerInv t :=
  .of_idle (hph.trans hp) (ht.trans (h.tick_eq_zero hp)) (hln ▸ (h.idle_lines hp).of_same hr hw hh)

/-- A write of a frame by an idle block (R111). -/
theorem SequencerInv.writeFrame {bytes : List Byte} (h : SequencerInv s) (hp : s.ph = .idle)
    (hf : isFrame bytes = true) : SequencerInv (s.writeFrame bytes) :=
  .of_idle (by simp [hp]) (by simp [h.tick_eq_zero hp]) (by simpa using (h.idle_lines hp).writeFrame hf)

end Sys2Proof.Safety
end

section
/-! ## The pulse train in flight keeps the invariant -/

namespace Sys2Proof.Safety
open Sys2Proof Sys2Proof.Machine
variable {s u : State} {p q r : Phase} {v : Level} {d n : Nat}

/-- In the hold of a row, with a value in the hold counter that the block may count down from (R133). -/
theorem SequencerInv.toPhase_hold (hrow : (p, q, r, v, d) ∈ holdRows s) (hl : s.holds.legal s.ln = true)
    (hlines : LinesInv q s.ln u) (hle : n ≤ if u.realisation.counted then periods d else 0)
    (hpos : (0 < if u.realisation.counted then periods d else 0) → 0 < n) (hh : u.holds = s.holds := by simp)
    (hln : u.ln = s.ln := by simp) : SequencerInv (u.toPhase q n) where
  legal _ := by simpa [hh, hln] using hl
  counter := by
    rw [counterBound_hold (t := u.toPhase q n) hrow rfl hh hln]
    exact ⟨hle, hpos⟩
  lines := by simpa [hln] using hlines.of_same

/-- After the hold of a row. -/
theorem SequencerInv.toPhase_after (hrow : (p, q, r, v, d) ∈ holdRows s) (hl : s.holds.legal s.ln = true)
    (hlines : LinesInv r s.ln u) (hh : u.holds = s.holds := by simp) (hln : u.ln = s.ln := by simp) :
    SequencerInv (u.toPhase r 0) where
  legal _ := by simpa [hh, hln] using hl
  counter := by
    rw [counterBound_after hrow rfl]
    exact ⟨Nat.le_refl 0, id⟩
  lines := by simpa [hln] using hlines.of_same

theorem SequencerInv.driveStep (h : SequencerInv s) (hrow : (p, q, r, v, d) ∈ holdRows s) (hp : s.ph = p)
    (hl : s.holds.legal s.ln = true) : SequencerInv (s.driveStep v d q) := by
  have hlines : LinesInv p s.ln s := hp ▸ h.lines
  cases hc : s.realisation.counted with
  | false =>
    rw [State.driveStep_slept hc]
    exact .toPhase_hold hrow hl (hlines.gpioSet hrow) (Nat.zero_le _) (by simp [hc])
  | true =>
    rw [State.driveStep_counted hc]
    exact .toPhase_hold hrow hl (hlines.gpioAtEdge hrow) (by simp [hc]) (by simp [hc])

theorem SequencerInv.holdStep (h : SequencerInv s) (hrow : (p, q, r, v, d) ∈ holdRows s) (hq : s.ph = q)
    (hl : s.holds.legal s.ln = true) : SequencerInv (s.holdStep d r) := by
  have hlines : LinesInv q s.ln s := hq ▸ h.lines
  cases hc : s.realisation.counted with
  | false =>
    rw [State.holdStep_slept hc]
    exact .toPhase_after hrow hl (hlines.sleep hrow hl)
  | true =>
    rw [State.holdStep_counted hc]
    by_cases ht : s.tick ≤ 1
    · rw [State.countStep_last ht]
      exact .toPhase_after hrow hl (hlines.hold hrow hl (le_heldFor d))
    · have hle : s.tick ≤ if s.realisation.counted then periods d else 0 :=
        counterBound_hold hrow hq rfl rfl ▸ h.counter.1
      rw [State.countStep_more (by omega), hq]
      exact .toPhase_hold hrow hl hlines.of_same (Nat.le_trans (Nat.sub_le ..) hle) fun _ => by omega

theorem SequencerInv.endTrain (h : SequencerInv s) : SequencerInv s.endTrain := by
  unfold State.endTrain
  split_ifs with hp
  · exact h.of_same hp
  · exact h

theorem BlockInv.phaseStep (h : BlockInv s) (hp : s.ph ≠ .idle) : BlockInv s.phaseStep := by
  have hl := h.legalHolds hp
  refine (h.noFrame (h.oneInFlight hp)).of_same.blockInv ?_
  obtain ⟨p, q, r, v, d, hrow, ⟨hph, hstep⟩ | ⟨hph, hstep⟩⟩ := State.phaseStep_row hp
  · rw [hstep]
    exact h.sequencer.driveStep hrow hph hl
  · rw [hstep]
    exact (h.sequencer.holdStep hrow hph hl).endTrain

end Sys2Proof.Safety
end

section
/-! ## A frame in flight keeps the invariant -/

namespace Sys2Proof.Safety
open Sys2Proof Sys2Proof.Machine
variable {s t : State}

theorem wholeFrame_of_stream_nil (h : s.stream = []) : wholeFrame s = s.frame := if_pos h

/-- Closing a frame with no byte missing leaves it what it becomes (R223). -/
theorem wholeFrame_sealWhole (s : State) : wholeFrame s.sealWhole = sealFrame (s.frame ++ s.stream) := by
  by_cases h : s.stream = [] <;> simp [wholeFrame, h]

theorem sealFrame_ne_nil (bytes : List Byte) : sealFrame bytes ≠ [] := by
  simp [sealFrame]

/-- A byte of a SEND leaves, outside the ports (R26). -/
theorem FrameInFlight.sendStep (h : FrameInFlight s) (hs : SequencerInv s) (hr : s.realisation ≠ .ported) :
    BlockInv s.sendStep := by
  obtain ⟨hstream, hdest, hwaited⟩ := h.unported hr
  unfold State.sendStep
  split_ifs with hb
  · refine FrameInFlight.blockInv ?_ (hs.of_same h.idle)
    exact { h with bi := hb, awaited := fun hn => absurd hstream hn, forCaller := fun hc => by simp [hdest] at hc }
  · have hsent := hs.writeFrame h.idle (wholeFrame_of_stream_nil hstream ▸ h.inOrder)
    exact NoFrame.blockInv ⟨rfl, rfl, hstream, hdest, hwaited⟩ (hsent.of_same (by simp [h.idle]))

/-- A frame at the ports of which no byte has left: its payload still arrives, or it has just been closed (R36, R223). -/
theorem FrameInFlight.sealWhole (hp : s.ph = .idle) (hr : s.realisation = .ported) (hf : s.frame ≠ [])
    (horder : isFrame (sealFrame (s.frame ++ s.stream)) = true) (hb : s.bi = 0) (hw : s.waited = 0) :
    FrameInFlight s.sealWhole := by
  have hne : s.sealWhole.frame ≠ [] := by
    rw [State.sealWhole_frame]
    split_ifs
    · exact sealFrame_ne_nil _
    · exact hf
  exact { idle := by simp [hp], frame := hne, inOrder := by rw [wholeFrame_sealWhole, horder],
          bi := by simp [hb], unported := fun h => absurd hr (by simpa using h), awaited := fun _ => by simp [hb],
          forCaller := fun _ => by rw [State.sealWhole_bi, hb]; exact List.length_pos_of_ne_nil hne,
          waiting := by simp [hw] }

/-- A cycle at a port with both sides ready (R36). -/
theorem FrameInFlight.transfer (h : FrameInFlight s) (hs : SequencerInv s) (hr : s.realisation = .ported)
    (hw : s.waited = 0) : BlockInv s.transfer := by
  obtain ⟨b, rest, hst, ht⟩ | ⟨hst, hb, hlast, ht⟩ | ⟨hst, -, -, -, ht⟩ | ⟨hst, -, ht⟩ := State.transfer_cases s
  · rw [ht]
    refine FrameInFlight.blockInv (.sealWhole h.idle hr (by simp) ?_ (h.awaited (by simp [hst])) hw) (hs.of_same h.idle)
    simpa [wholeFrame, hst] using h.inOrder
  · rw [ht]
    refine FrameInFlight.blockInv ?_ (hs.of_same h.idle)
    exact { h with
      bi := hb, awaited := fun hn => absurd hst hn, waiting := by simp [hw],
      forCaller := fun hd => lt_of_le_of_ne hb fun he => hlast ⟨hd, he⟩ }
  · rw [ht]
    exact NoFrame.blockInv ⟨rfl, rfl, hst, rfl, hw⟩ (hs.of_same h.idle)
  · rw [ht]
    have hsent := hs.writeFrame h.idle (wholeFrame_of_stream_nil hst ▸ h.inOrder)
    exact NoFrame.blockInv ⟨rfl, rfl, hst, rfl, hw⟩ (hsent.of_same (by simp [h.idle]))

/-- A cycle at a port (R36). -/
theorem FrameInFlight.portStep (h : FrameInFlight s) (hs : SequencerInv s) (hr : s.realisation = .ported) :
    BlockInv s.portStep := by
  cases hready : s.sideReady with
  | false =>
    have hwait : s.waited < s.nextWait := by simpa [State.sideReady] using hready
    rw [State.portStep_waits hready]
    refine FrameInFlight.blockInv ?_ (hs.of_same h.idle)
    exact { h with waiting := hwait, unported := fun hn => absurd hr hn }
  | true =>
    rw [State.portStep_ready hready]
    have hcycle : FrameInFlight s.transferCycle :=
      { h with waiting := Nat.zero_le _, unported := fun hn => absurd hr hn }
    exact hcycle.transfer (hs.of_same h.idle) hr rfl

theorem BlockInv.flightStep (h : BlockInv s) (hf : s.frame ≠ []) : BlockInv s.flightStep := by
  have hflight := h.frameInFlight hf
  unfold State.flightStep
  cases hr : s.realisation with
  | transaction => exact hflight.sendStep h.sequencer (by simp [hr])
  | stepwise => exact hflight.sendStep h.sequencer (by simp [hr])
  | clocked => exact hflight.sendStep h.sequencer (by simp [hr])
  | ported => exact hflight.portStep h.sequencer hr

end Sys2Proof.Safety
end

section
/-! ## Every instruction keeps the invariant -/

namespace Sys2Proof.Safety
open Sys2Proof Sys2Proof.Machine
variable {s t : State}

theorem BlockInv.complete (h : BlockInv s) (hp : s.ph = .idle) (hf : s.frame = []) (status : Status)
    (frame : Option (List Byte)) : BlockInv (s.complete status frame) :=
  (h.noFrame hf).of_same.blockInv (h.sequencer.of_same hp)

theorem BlockInv.sendWhole (h : BlockInv s) (hp : s.ph = .idle) (hf : s.frame = []) (cmd : Byte) (pl : List Byte) :
    BlockInv (s.sendWhole cmd pl) := by
  obtain ⟨he, ht⟩ | ⟨e, -, ht⟩ := s.sendWhole_cases cmd pl
  · rw [ht]
    obtain ⟨-, hb, hst, hd, hw⟩ := h.noFrame hf
    exact NoFrame.blockInv ⟨hf, hb, hst, hd, hw⟩ (h.sequencer.writeFrame hp (isFrame_of_encodeFrame he))
  · rw [ht]
    exact h.complete hp hf _ _

theorem BlockInv.sendStart (h : BlockInv s) (hp : s.ph = .idle) (hf : s.frame = []) (cmd : Byte) (pl : List Byte) :
    BlockInv (s.sendStart cmd pl) := by
  obtain ⟨he, ht⟩ | ⟨e, -, ht⟩ := s.sendStart_cases cmd pl
  · rw [ht]
    obtain ⟨-, -, hst, hd, hw⟩ := h.noFrame hf
    refine FrameInFlight.blockInv ?_ (h.sequencer.of_same hp)
    exact
      { idle := hp, frame := List.ne_nil_of_length_pos (by simp),
        inOrder := by simpa [wholeFrame, hst] using isFrame_of_encodeFrame he,
        bi := Nat.zero_le _, unported := fun _ => ⟨hst, hd, hw⟩, awaited := fun _ => rfl,
        forCaller := fun hc => by simp [hd] at hc, waiting := by simp [hw] }
  · rw [ht]
    exact h.complete hp hf _ _

theorem BlockInv.portStart (h : BlockInv s) (hp : s.ph = .idle) (hf : s.frame = []) (hr : s.realisation = .ported)
    (dest : Destination) (cmd : Byte) (pl : List Byte) : BlockInv (s.portStart dest cmd pl) := by
  obtain ⟨he, ht⟩ | ⟨e, -, ht⟩ := s.portStart_cases dest cmd pl
  · rw [ht]
    refine FrameInFlight.blockInv (.sealWhole hp hr (by simp [frameHeader]) ?_ rfl (h.noFrame hf).waited)
      (h.sequencer.of_same hp)
    rw [sealFrame_header]
    exact isFrame_of_encodeFrame he
  · rw [ht]
    exact h.complete hp hf _ _

theorem BlockInv.pulseWhole (h : BlockInv s) (hp : s.ph = .idle) (hf : s.frame = []) {l : Line}
    (hl : s.holds.legal l = true) : BlockInv (s.pulseWhole l) := by
  refine (h.noFrame hf).of_same.blockInv (.of_idle (by simp [hp]) (by simp [h.sequencer.tick_eq_zero hp]) ?_)
  rw [State.pulseWhole_ln]
  exact (h.sequencer.idle_lines hp).pulseWhole hl

theorem BlockInv.pulseStart (h : BlockInv s) (hp : s.ph = .idle) (hf : s.frame = []) {l : Line}
    (hl : s.holds.legal l = true) : BlockInv (s.pulseStart l) := by
  have hcount : counterBound (s.pulseStart l) = 0 := counterBound_eq_zero (.inr (.inl rfl))
  have htick : (s.pulseStart l).tick = 0 := h.sequencer.tick_eq_zero hp
  obtain ⟨-, hb, hst, hd, hw⟩ := h.noFrame hf
  refine NoFrame.blockInv ⟨hf, hb, hst, hd, hw⟩ ⟨fun _ => hl, by simp [hcount, htick], ?_⟩
  exact (h.sequencer.idle_lines hp).start.of_same rfl rfl rfl

theorem BlockInv.exec {i : Instr} (h : BlockInv s) (hexec : exec i s = .next t) : BlockInv t := by
  obtain ⟨hp, hf, ⟨cmd, payload, -, ⟨-, rfl⟩ | ⟨hr, rfl⟩⟩ | ⟨cmd, pl, -, ⟨-, rfl⟩ | ⟨-, rfl⟩ | ⟨hr, rfl⟩⟩ |
    ⟨l, -, hl, ⟨-, rfl⟩ | ⟨-, rfl⟩⟩⟩ := exec_next hexec
  · exact h.complete hp hf _ _
  · exact h.portStart hp hf hr _ _ _
  · exact h.sendWhole hp hf _ _
  · exact h.sendStart hp hf _ _
  · exact h.portStart hp hf hr _ _ _
  · exact h.pulseWhole hp hf hl
  · exact h.pulseStart hp hf hl

theorem BlockInv.noDone (h : BlockInv s) (hp : s.ph = .idle) (hf : s.frame = []) : BlockInv s.noDone :=
  (h.noFrame hf).of_same.blockInv (h.sequencer.of_same hp)

theorem BlockInv.accept (h : BlockInv s) (hp : s.ph = .idle) (hf : s.frame = []) (rest : List Words) :
    BlockInv (s.accept rest) :=
  (h.noFrame hf).of_same.blockInv (h.sequencer.of_same hp)

end Sys2Proof.Safety
end

section
/-! ## The statements settled here -/

namespace Sys2Proof.Safety
open Sys2Proof Sys2Proof.Machine

/-- Settles O46, by the four things a step can do: a step of a pulse train, a step of a frame in flight, a wait, or an
instruction. -/
theorem invKeptByStep : Obligations.InvKeptByStep := by
  intro s t h hstep
  obtain ⟨hp, -, rfl⟩ | ⟨-, hf, rfl⟩ | ⟨hp, hf, -, rfl⟩ | ⟨hp, hf, w, rest, i, -, -, hexec⟩ := step_next hstep
  · exact h.phaseStep hp
  · exact h.flightStep hf
  · exact h.noDone hp hf
  · exact (h.accept hp hf rest).exec hexec

/-- An idle block whose holds of the line are not legal refuses the pulse train (R9; 93 entry U14). -/
theorem issuePulse_illegal {l : Line} {s : State} (hp : s.ph = .idle) (hf : s.frame = []) (hl : s.holds.legal l ≠ true) :
    issuePulse l s = .refused .holdBelowMinimum := by
  rw [issuePulse, State.ifIdle_idle hp hf, State.ifLegal, if_neg hl]

/-- Settles O39: one hold below its minimum makes the line's holds illegal. -/
theorem illegalHoldsRefused : Obligations.IllegalHoldsRefused := by
  intro s hp hf
  refine ⟨fun hbelow => issuePulse_illegal (l := .reset) hp hf fun hl => ?_,
    fun hbelow => issuePulse_illegal (l := .wake) hp hf fun hl => ?_⟩
  · obtain ⟨h1 : 1000 ≤ s.holds.rstLow1, h2 : 1000 ≤ s.holds.rstHigh, h3 : 2000000 ≤ s.holds.rstLow2⟩ :=
      Holds.legal_iff.mp hl
    omega
  · obtain ⟨h1 : 1000 ≤ s.holds.wakeLow1, h2 : 1000 ≤ s.holds.wakeHigh, h3 : 10000 ≤ s.holds.wakeLow2⟩ :=
      Holds.legal_iff.mp hl
    omega

/-- Settles O44: each value is the one `State.reset` writes down. -/
theorem stateAfterConstruction : Obligations.StateAfterConstruction :=
  ⟨rfl, rfl, rfl, rfl, rfl, rfl, rfl, rfl, rfl⟩

end Sys2Proof.Safety
end

section
/-! ## One step, by what is in flight -/

namespace Sys2Proof.Machine
open Sys2Proof
variable {s : State}

/-- A pulse train in flight goes on with its next row (R132). -/
theorem step_train (hp : s.ph ≠ .idle) (hl : s.holds.legal s.ln = true) : step s = .next s.phaseStep := by
  rw [step, if_pos hp, pulseStep, State.ifLegal, if_pos hl]

/-- A frame in flight goes on with its next byte or cycle (R26, R36). -/
theorem step_flight (hp : s.ph = .idle) (hf : s.frame ≠ []) : step s = .next s.flightStep := by
  rw [step, if_neg (not_not.mpr hp), if_pos hf]

/-- An idle block serves its port (R53, R217). -/
theorem step_idle (hp : s.ph = .idle) (hf : s.frame = []) : step s = serve s := by
  rw [step, if_neg (not_not.mpr hp), if_neg (not_not.mpr hf)]

theorem State.flightStep_unported (hr : s.realisation ≠ .ported) : s.flightStep = s.sendStep := by
  cases h : s.realisation with
  | ported => exact absurd h hr
  | transaction => simp [State.flightStep, h]
  | stepwise => simp [State.flightStep, h]
  | clocked => simp [State.flightStep, h]

theorem State.flightStep_ported (hr : s.realisation = .ported) : s.flightStep = s.portStep := by
  simp [State.flightStep, hr]

/-- A byte of a SEND leaves, outside the ports (R26). -/
theorem State.sendStep_byte (hb : s.bi < s.frame.length) : s.sendStep = { s with done := none, bi := s.bi + 1 } :=
  if_pos hb

/-- After the last byte the transport's answer ends the SEND (R31, R112). -/
theorem State.sendStep_answer (hb : s.frame.length ≤ s.bi) : s.sendStep = (s.writeFrame s.frame).discard :=
  if_neg (Nat.not_lt.mpr hb)

end Sys2Proof.Machine
end

section
/-! ## Runs -/

namespace Sys2Proof.Safety
open Sys2Proof Sys2Proof.Machine
variable {s t u : State} {j k : Nat}

theorem runSteps_succ (h : step s = .next t) : runSteps (k + 1) s = runSteps k t := by
  simp [runSteps, h]

theorem runSteps_add (h : runSteps j s = .next t) : runSteps (j + k) s = runSteps k t := by
  induction j generalizing s with
  | zero =>
    cases h
    rw [Nat.zero_add]
  | succ j ih =>
    cases hs : step s with
    | next u =>
      rw [runSteps_succ hs] at h
      rw [Nat.succ_add, runSteps_succ hs, ih h]
    | fault r => simp [runSteps, hs] at h
    | refused r => simp [runSteps, hs] at h

/-- One step after a run. -/
theorem runSteps_concat (h : runSteps k s = .next t) (ht : step t = .next u) : runSteps (k + 1) s = .next u := by
  rw [runSteps_add h, runSteps_succ ht]
  rfl

end Sys2Proof.Safety
end

section
/-! ## What the rows of R132 leave -/

namespace Sys2Proof.Machine
open Sys2Proof

/-- What a step of a hold can do: the whole Sleep, its last clock period, or one before it (R132, R133). -/
theorem State.holdStep_cases (s : State) (t : Nat) (next : Phase) :
    s.holdStep t next = (s.sleep t).toPhase next 0 ∨
    s.holdStep t next = ((s.elapse (periodTime t s.tick)).note (.sleep t (heldFor t))).toPhase next 0 ∨
    (1 < s.tick ∧ s.holdStep t next = (s.elapse (periodTime t s.tick)).toPhase s.ph (s.tick - 1)) := by
  cases hc : s.realisation.counted with
  | false => exact .inl (State.holdStep_slept hc t next)
  | true =>
    rw [State.holdStep_counted hc]
    by_cases ht : s.tick ≤ 1
    · exact .inr (.inl (State.countStep_last ht t next))
    · exact .inr (.inr ⟨Nat.lt_of_not_le ht, State.countStep_more (Nat.lt_of_not_le ht) t next⟩)

@[simp] theorem State.holdStep_resetLine (s : State) (t : Nat) (next : Phase) :
    (s.holdStep t next).resetLine = s.resetLine := by
  obtain h | h | ⟨-, h⟩ := s.holdStep_cases t next <;> simp [h]
@[simp] theorem State.holdStep_wakeLine (s : State) (t : Nat) (next : Phase) :
    (s.holdStep t next).wakeLine = s.wakeLine := by
  obtain h | h | ⟨-, h⟩ := s.holdStep_cases t next <;> simp [h]
@[simp] theorem State.holdStep_results (s : State) (t : Nat) (next : Phase) :
    (s.holdStep t next).results = s.results := by
  obtain h | h | ⟨-, h⟩ := s.holdStep_cases t next <;> simp [h]

@[simp] theorem State.driveStep_ph (s : State) (v : Level) (t : Nat) (next : Phase) :
    (s.driveStep v t next).ph = next := by
  unfold State.driveStep; split <;> simp
@[simp] theorem State.driveStep_hist (s : State) (v : Level) (t : Nat) (next : Phase) :
    (s.driveStep v t next).hist = s.hist ++ [.gpioSet s.ln v] := by
  unfold State.driveStep; split <;> simp
@[simp] theorem State.driveStep_done (s : State) (v : Level) (t : Nat) (next : Phase) :
    (s.driveStep v t next).done = none := by
  unfold State.driveStep; split <;> simp
@[simp] theorem State.driveStep_results (s : State) (v : Level) (t : Nat) (next : Phase) :
    (s.driveStep v t next).results = s.results := by
  unfold State.driveStep; split <;> simp

@[simp] theorem State.endTrain_resetLine (s : State) : s.endTrain.resetLine = s.resetLine := by
  unfold State.endTrain; split <;> simp
@[simp] theorem State.endTrain_wakeLine (s : State) : s.endTrain.wakeLine = s.wakeLine := by
  unfold State.endTrain; split <;> simp
@[simp] theorem State.endTrain_hist (s : State) : s.endTrain.hist = s.hist := by
  unfold State.endTrain; split <;> simp
@[simp] theorem State.endTrain_now (s : State) : s.endTrain.now = s.now := by
  unfold State.endTrain; split <;> simp

/-- The third hold over, the train completes with OK (R131). -/
theorem State.endTrain_idle {s : State} (h : s.ph = .idle) : s.endTrain = s.complete .ok none := if_pos h

/-- Before that it does not. -/
theorem State.endTrain_busy {s : State} (h : s.ph ≠ .idle) : s.endTrain = s := if_neg h

@[simp] theorem State.line_toPhase (s : State) (next : Phase) (count : Nat) (l : Line) :
    (s.toPhase next count).line l = s.line l := State.line_congr rfl rfl l

@[simp] theorem State.line_endTrain (s : State) (l : Line) : s.endTrain.line l = s.line l :=
  State.line_congr (by simp) (by simp) l

@[simp] theorem State.line_holdStep (s : State) (t : Nat) (next : Phase) (l : Line) :
    (s.holdStep t next).line l = s.line l := State.line_congr (by simp) (by simp) l

@[simp] theorem State.line_driveStep_self (s : State) (v : Level) (t : Nat) (next : Phase) :
    (s.driveStep v t next).line s.ln = some v := by
  unfold State.driveStep; split <;> simp

/-- A drive leaves the other line alone (R22). -/
theorem State.line_driveStep_other (s : State) {l : Line} (v : Level) (t : Nat) (next : Phase) (h : l ≠ s.ln) :
    (s.driveStep v t next).line l = s.line l := by
  unfold State.driveStep
  split
  · simp [State.line_gpioAtEdge_other s v h]
  · simp [State.line_gpioSet_other s v h]

end Sys2Proof.Machine

namespace Sys2Proof.Safety
open Sys2Proof Sys2Proof.Machine
variable {s t : State} {p q r : Phase} {v : Level} {d : Nat}

theorem holdRows_congr (hh : t.holds = s.holds) (hln : t.ln = s.ln) : holdRows t = holdRows s := by
  simp [holdRows, hh, hln]

/-- The step at the drive of a row (R132). -/
theorem step_drive (hrow : (p, q, r, v, d) ∈ holdRows s) (hl : s.holds.legal s.ln = true) (hp : s.ph = p) :
    step s = .next (s.driveStep v d q) := by
  rw [step_train _ hl]
  · obtain ⟨rfl, rfl, -, rfl, rfl⟩ | ⟨rfl, rfl, -, rfl, rfl⟩ | ⟨rfl, rfl, -, rfl, rfl⟩ := holdRows_cases hrow <;>
      simp [State.phaseStep, hp]
  · obtain ⟨rfl, -⟩ | ⟨rfl, -⟩ | ⟨rfl, -⟩ := holdRows_cases hrow <;> simp [hp]

/-- The step in the hold of a row (R132). -/
theorem step_hold (hrow : (p, q, r, v, d) ∈ holdRows s) (hl : s.holds.legal s.ln = true) (hq : s.ph = q) :
    step s = .next (s.holdStep d r).endTrain := by
  have hne : s.ph ≠ .idle := by
    obtain ⟨-, rfl, -⟩ | ⟨-, rfl, -⟩ | ⟨-, rfl, -⟩ := holdRows_cases hrow <;> simp [hq]
  rw [step_train hne hl]
  obtain ⟨-, rfl, rfl, -, rfl⟩ | ⟨-, rfl, rfl, -, rfl⟩ | ⟨-, rfl, rfl, -, rfl⟩ := holdRows_cases hrow
  · rw [State.endTrain_holdStep hne (by decide)]
    simp [State.phaseStep, hq]
  · rw [State.endTrain_holdStep hne (by decide)]
    simp [State.phaseStep, hq]
  · simp [State.phaseStep, hq]

/-- A legal hold is longer than nothing (R8, R9). -/
theorem duration_pos (hrow : (p, q, r, v, d) ∈ holdRows s) (hl : s.holds.legal s.ln = true) : 0 < d := by
  obtain ⟨h1, h2, h3⟩ := Holds.legal_iff.mp hl
  have hmin : 0 < minT1 s.ln ∧ 0 < minT2 s.ln ∧ 0 < minT3 s.ln := by cases s.ln <;> decide
  obtain ⟨-, -, -, -, rfl⟩ | ⟨-, -, -, -, rfl⟩ | ⟨-, -, -, -, rfl⟩ := holdRows_cases hrow <;> omega

end Sys2Proof.Safety
end

section
/-! ## The instructions that expand to SEND, and the frame by its offset map -/

namespace Sys2Proof.Safety
open Sys2Proof Sys2Proof.Machine
variable {i : Instr} {cmd : Byte} {pl : List Byte} {s t : State}

/-- An instruction that expands to SEND answers a next state only through the SEND of its pair (R150). -/
theorem issueSend_of_exec (hi : sendOperands i = some (cmd, pl)) (h : exec i s = .next t) :
    issueSend cmd pl s = .next t := by
  obtain ⟨_, _, rfl, -⟩ | ⟨_, _, hi', h⟩ | ⟨rfl, -⟩ | ⟨rfl, -⟩ := exec_issues h
  · simp [sendOperands] at hi
  · cases hi.symm.trans hi'
    exact h
  · simp [sendOperands] at hi
  · simp [sendOperands] at hi

theorem ifArgsFit_of_le {args : List Nat} {k : Host.Outcome State Fault Refusal} (h : ∀ v ∈ args, v ≤ 65535) :
    ifArgsFit args k = k :=
  if_pos (argsFit_iff.mpr fun v hv => Nat.lt_succ_of_le (h v hv))

theorem ifCharsFit_of_le {chars : List Nat} {k : Host.Outcome State Fault Refusal} (h : ∀ u ∈ chars, u ≤ 255) :
    ifCharsFit chars k = k :=
  if_pos (charsFit_iff.mpr fun u hu => Nat.lt_succ_of_le (h u hu))

/-- With operands in range, an instruction that expands to SEND is the SEND of its pair (R150). -/
theorem exec_eq_issueSend (hfit : OperandsFit i) (hi : sendOperands i = some (cmd, pl)) :
    exec i s = issueSend cmd pl s := by
  cases i with
  | encode _ _ => simp [sendOperands] at hi
  | reset => simp [sendOperands] at hi
  | wake => simp [sendOperands] at hi
  | send _ _ => cases hi; rfl
  | frame _ _ => cases hi; rfl
  | clear => cases hi; rfl
  | update => cases hi; rfl
  | sleep => cases hi; rfl
  | drawPixel a b =>
    obtain ⟨ha, hb⟩ := hfit
    cases hi
    exact ifArgsFit_of_le (by simp [ha, hb])
  | setColor _ => cases hi; exact ifArgsFit_of_le hfit
  | drawLine _ => cases hi; exact ifArgsFit_of_le hfit
  | fillRect _ => cases hi; exact ifArgsFit_of_le hfit
  | drawCircle _ => cases hi; exact ifArgsFit_of_le hfit
  | fillCircle _ => cases hi; exact ifArgsFit_of_le hfit
  | drawTriangle _ => cases hi; exact ifArgsFit_of_le hfit
  | fillTriangle _ => cases hi; exact ifArgsFit_of_le hfit
  | setMemoryMode _ => cases hi; exact ifArgsFit_of_le hfit
  | setRotation _ => cases hi; exact ifArgsFit_of_le hfit
  | setFont _ => cases hi; exact ifArgsFit_of_le hfit
  | text _ _ => cases hi; exact (ifArgsFit_of_le hfit.1).trans (ifCharsFit_of_le hfit.2)
  | drawBitmap _ _ => cases hi; exact (ifArgsFit_of_le hfit.1).trans (ifCharsFit_of_le hfit.2)

/-- The fold of a XOR may start anywhere (R10). -/
theorem xorFold_append (a b : List Byte) : xorFold (a ++ b) = xorFold a ^^^ xorFold b := by
  have hstart : ∀ (l : List Byte) (x : Byte), l.foldl (· ^^^ ·) x = x ^^^ l.foldl (· ^^^ ·) 0 := by
    intro l
    induction l with
    | nil => simp
    | cons y l ih =>
      intro x
      rw [List.foldl_cons, List.foldl_cons, ih, ih (0 ^^^ y), BitVec.xor_assoc]
      simp
  rw [xorFold, List.foldl_append, hstart]
  rfl

/-- The checksum by the fields: the trailer's bytes cancel out (R76). -/
theorem xorFold_frameWithoutChecksum (cmd : Byte) (pl : List Byte) :
    xorFold (frameWithoutChecksum cmd pl) =
      0xA5 ^^^ hi8 (pl.length + 9) ^^^ lo8 (pl.length + 9) ^^^ cmd ^^^ xorFold pl := by
  have htrailer : xorFold Config.trailer = 0 := rfl
  have hlen : frameLen cmd pl = pl.length + 9 := by simp [frameLen, frameBody, memRead, Config.fixedOverhead]
  rw [frameWithoutChecksum, xorFold_append, xorFold_append, htrailer, hlen, frameBody, memRead, List.drop_zero,
    List.take_length, xorFold_append]
  simp [xorFold, Config.startByte, BitVec.xor_assoc]

/-- The encoder's frame is that of the offset map (R51). -/
theorem buildFrame_eq_frameWords (cmd : Byte) (pl : List Byte) : buildFrame cmd pl = frameWords cmd pl := by
  rw [buildFrame_eq_cons, xorFold_frameWithoutChecksum, frameWords]
  simp [Config.startByte, Config.trailer]

/-! ## The encoder's answer and what the whole operations leave -/

theorem encodeFrame_of_accepted (h : Accepted cmd pl) : encodeFrame cmd pl = .ok (buildFrame cmd pl) := by
  obtain ⟨hc, hn⟩ := h
  obtain ⟨-, -, he⟩ | ⟨-, hlong, -⟩ | ⟨hno, -⟩ := encodeFrame_cases cmd pl
  · exact he
  · exact absurd hn (Nat.not_le.mpr hlong)
  · simp [hc] at hno

/-- Operands not accepted end every operation with the encoder's error (R91, R92, R113). -/
theorem encodeFrame_of_not_accepted (h : ¬ Accepted cmd pl) : ∃ e, encodeFrame cmd pl = .error e := by
  obtain ⟨hc, hn, -⟩ | ⟨-, -, he⟩ | ⟨-, he⟩ := encodeFrame_cases cmd pl
  · exact absurd ⟨hc, hn⟩ h
  · exact ⟨_, he⟩
  · exact ⟨_, he⟩

/-- The SEND run whole leaves what the rules say (R110 to R113). -/
theorem sendWhole_eq_sendPost (s : State) (cmd : Byte) (pl : List Byte) : s.sendWhole cmd pl = sendPost cmd pl s := by
  obtain ⟨hc, hn, he⟩ | ⟨hc, hn, he⟩ | ⟨hc, he⟩ := encodeFrame_cases cmd pl
  · have hn' : ¬ 503 < pl.length := Nat.not_lt.mpr hn
    have hstatus : sendStatus (buildFrame cmd pl) s.nextAnswer = writeStatus pl s.nextAnswer := by
      simp [sendStatus, writeStatus]
    simp only [State.sendWhole, he, sendPost, hc, hn', State.writeFrame, hstatus]
    rw [buildFrame_eq_frameWords]
    rfl
  · have hn' : 503 < pl.length := hn
    simp [State.sendWhole, he, sendPost, hc, hn', State.complete, ended, EncodeError.status]
  · simp [State.sendWhole, he, sendPost, hc, State.complete, ended, EncodeError.status]

/-- The ENCODE run whole leaves what the rules say (R90 to R92). -/
theorem encodeWhole_eq_encodePost (s : State) (cmd : Byte) (pl : List Byte) :
    s.encodeWhole cmd pl = encodePost cmd pl s := by
  obtain ⟨hc, hn, he⟩ | ⟨hc, hn, he⟩ | ⟨hc, he⟩ := encodeFrame_cases cmd pl
  · have hn' : ¬ 503 < pl.length := Nat.not_lt.mpr hn
    simp [State.encodeWhole, encodeCompletion, he, encodePost, hc, hn', State.complete, ended, buildFrame_eq_frameWords]
  · have hn' : 503 < pl.length := hn
    simp [State.encodeWhole, encodeCompletion, he, encodePost, hc, hn', State.complete, ended, EncodeError.status]
  · simp [State.encodeWhole, encodeCompletion, he, encodePost, hc, State.complete, ended, EncodeError.status]

theorem sendPost_of_accepted (h : Accepted cmd pl) : sendPost cmd pl s = s.writeFrame (buildFrame cmd pl) := by
  rw [← sendWhole_eq_sendPost, State.sendWhole, encodeFrame_of_accepted h]

theorem encodePost_of_accepted (h : Accepted cmd pl) :
    encodePost cmd pl s = s.complete .ok (some (buildFrame cmd pl)) := by
  rw [← encodeWhole_eq_encodePost, State.encodeWhole, encodeCompletion, encodeFrame_of_accepted h]

theorem sendPost_of_error {e : EncodeError} (h : encodeFrame cmd pl = .error e) :
    sendPost cmd pl s = s.complete e.status none := by
  rw [← sendWhole_eq_sendPost, State.sendWhole, h]

theorem encodePost_of_error {e : EncodeError} (h : encodeFrame cmd pl = .error e) :
    encodePost cmd pl s = s.complete e.status none := by
  rw [← encodeWhole_eq_encodePost, State.encodeWhole, encodeCompletion, h]

end Sys2Proof.Safety
end

section
/-! ## What accepting an instruction leaves alone -/

namespace Sys2Proof.Machine
open Sys2Proof

@[simp] theorem State.encodeWhole_resetLine (s : State) (cmd : Byte) (pl : List Byte) :
    (s.encodeWhole cmd pl).resetLine = s.resetLine := rfl
@[simp] theorem State.encodeWhole_wakeLine (s : State) (cmd : Byte) (pl : List Byte) :
    (s.encodeWhole cmd pl).wakeLine = s.wakeLine := rfl
@[simp] theorem State.encodeWhole_holds (s : State) (cmd : Byte) (pl : List Byte) :
    (s.encodeWhole cmd pl).holds = s.holds := rfl
@[simp] theorem State.encodeWhole_realisation (s : State) (cmd : Byte) (pl : List Byte) :
    (s.encodeWhole cmd pl).realisation = s.realisation := rfl

@[simp] theorem State.sendWhole_resetLine (s : State) (cmd : Byte) (pl : List Byte) :
    (s.sendWhole cmd pl).resetLine = s.resetLine := by
  unfold State.sendWhole; split <;> simp
@[simp] theorem State.sendWhole_wakeLine (s : State) (cmd : Byte) (pl : List Byte) :
    (s.sendWhole cmd pl).wakeLine = s.wakeLine := by
  unfold State.sendWhole; split <;> simp
@[simp] theorem State.sendWhole_ph (s : State) (cmd : Byte) (pl : List Byte) : (s.sendWhole cmd pl).ph = s.ph := by
  unfold State.sendWhole; split <;> simp
@[simp] theorem State.sendWhole_ln (s : State) (cmd : Byte) (pl : List Byte) : (s.sendWhole cmd pl).ln = s.ln := by
  unfold State.sendWhole; split <;> simp
@[simp] theorem State.sendWhole_tick (s : State) (cmd : Byte) (pl : List Byte) :
    (s.sendWhole cmd pl).tick = s.tick := by
  unfold State.sendWhole; split <;> simp
@[simp] theorem State.sendWhole_holds (s : State) (cmd : Byte) (pl : List Byte) :
    (s.sendWhole cmd pl).holds = s.holds := by
  unfold State.sendWhole; split <;> simp
@[simp] theorem State.sendWhole_realisation (s : State) (cmd : Byte) (pl : List Byte) :
    (s.sendWhole cmd pl).realisation = s.realisation := by
  unfold State.sendWhole; split <;> simp
@[simp] theorem State.sendWhole_requests (s : State) (cmd : Byte) (pl : List Byte) :
    (s.sendWhole cmd pl).requests = s.requests := by
  unfold State.sendWhole; split <;> simp

@[simp] theorem State.sendStart_resetLine (s : State) (cmd : Byte) (pl : List Byte) :
    (s.sendStart cmd pl).resetLine = s.resetLine := by
  unfold State.sendStart; split <;> simp
@[simp] theorem State.sendStart_wakeLine (s : State) (cmd : Byte) (pl : List Byte) :
    (s.sendStart cmd pl).wakeLine = s.wakeLine := by
  unfold State.sendStart; split <;> simp
@[simp] theorem State.sendStart_ph (s : State) (cmd : Byte) (pl : List Byte) : (s.sendStart cmd pl).ph = s.ph := by
  unfold State.sendStart; split <;> simp
@[simp] theorem State.sendStart_ln (s : State) (cmd : Byte) (pl : List Byte) : (s.sendStart cmd pl).ln = s.ln := by
  unfold State.sendStart; split <;> simp
@[simp] theorem State.sendStart_tick (s : State) (cmd : Byte) (pl : List Byte) :
    (s.sendStart cmd pl).tick = s.tick := by
  unfold State.sendStart; split <;> simp
@[simp] theorem State.sendStart_holds (s : State) (cmd : Byte) (pl : List Byte) :
    (s.sendStart cmd pl).holds = s.holds := by
  unfold State.sendStart; split <;> simp
@[simp] theorem State.sendStart_realisation (s : State) (cmd : Byte) (pl : List Byte) :
    (s.sendStart cmd pl).realisation = s.realisation := by
  unfold State.sendStart; split <;> simp
@[simp] theorem State.sendStart_requests (s : State) (cmd : Byte) (pl : List Byte) :
    (s.sendStart cmd pl).requests = s.requests := by
  unfold State.sendStart; split <;> simp
@[simp] theorem State.sendStart_hist (s : State) (cmd : Byte) (pl : List Byte) :
    (s.sendStart cmd pl).hist = s.hist := by
  unfold State.sendStart; split <;> simp
@[simp] theorem State.sendStart_now (s : State) (cmd : Byte) (pl : List Byte) : (s.sendStart cmd pl).now = s.now := by
  unfold State.sendStart; split <;> simp

@[simp] theorem State.portStart_hist (s : State) (dest : Destination) (cmd : Byte) (pl : List Byte) :
    (s.portStart dest cmd pl).hist = s.hist := by
  unfold State.portStart; split <;> simp
@[simp] theorem State.portStart_now (s : State) (dest : Destination) (cmd : Byte) (pl : List Byte) :
    (s.portStart dest cmd pl).now = s.now := by
  unfold State.portStart; split <;> simp

@[simp] theorem State.pulseWhole_resetLine (s : State) (l : Line) :
    (s.pulseWhole l).resetLine = if l = .reset then some .low else s.resetLine := by
  cases l <;> simp [State.pulseWhole, State.pulseCalls]
@[simp] theorem State.pulseWhole_wakeLine (s : State) (l : Line) :
    (s.pulseWhole l).wakeLine = if l = .wake then some .low else s.wakeLine := by
  cases l <;> simp [State.pulseWhole, State.pulseCalls]
@[simp] theorem State.pulseWhole_holds (s : State) (l : Line) : (s.pulseWhole l).holds = s.holds := by
  simp [State.pulseWhole, State.pulseCalls]
@[simp] theorem State.pulseWhole_realisation (s : State) (l : Line) : (s.pulseWhole l).realisation = s.realisation := by
  simp [State.pulseWhole, State.pulseCalls]
@[simp] theorem State.pulseWhole_done (s : State) (l : Line) : (s.pulseWhole l).done = some ⟨.ok, none⟩ := rfl
@[simp] theorem State.pulseWhole_results (s : State) (l : Line) :
    (s.pulseWhole l).results = s.results ++ [⟨.ok, none⟩] := by
  simp [State.pulseWhole, State.pulseCalls]

@[simp] theorem State.pulseStart_resetLine (s : State) (l : Line) : (s.pulseStart l).resetLine = s.resetLine := rfl
@[simp] theorem State.pulseStart_wakeLine (s : State) (l : Line) : (s.pulseStart l).wakeLine = s.wakeLine := rfl
@[simp] theorem State.pulseStart_holds (s : State) (l : Line) : (s.pulseStart l).holds = s.holds := rfl
@[simp] theorem State.pulseStart_realisation (s : State) (l : Line) :
    (s.pulseStart l).realisation = s.realisation := rfl
@[simp] theorem State.pulseStart_hist (s : State) (l : Line) : (s.pulseStart l).hist = s.hist := rfl
@[simp] theorem State.pulseStart_now (s : State) (l : Line) : (s.pulseStart l).now = s.now := rfl

/-- The construction parameters are static in every instruction (R28). -/
theorem exec_static {i : Instr} {s t : State} (h : exec i s = .next t) :
    t.holds = s.holds ∧ t.realisation = s.realisation := by
  obtain ⟨-, -, ⟨_, _, -, ⟨-, rfl⟩ | ⟨-, rfl⟩⟩ | ⟨_, _, -, ⟨-, rfl⟩ | ⟨-, rfl⟩ | ⟨-, rfl⟩⟩ |
    ⟨_, -, -, ⟨-, rfl⟩ | ⟨-, rfl⟩⟩⟩ := exec_next h <;> simp

end Sys2Proof.Machine
end

section
/-! ## How the history grows -/

namespace Sys2Proof.Safety
open Sys2Proof Sys2Proof.Machine

/-- From `s` to `t` the history has grown by at most `n` events and the instant has not decreased (R32, R33). -/
def GrowsBy (n : Nat) (s t : State) : Prop := (∃ evs, t.hist = s.hist ++ evs ∧ evs.length ≤ n) ∧ s.now ≤ t.now

namespace GrowsBy
variable {m n : Nat} {s t u : State}

theorem of_same (hh : t.hist = s.hist := by simp) (hn : t.now = s.now := by simp) : GrowsBy n s t :=
  ⟨⟨[], by simp [hh]⟩, hn.ge⟩

theorem of_event {ev : Event} (hpos : 0 < n) (hh : t.hist = s.hist ++ [ev]) (hn : s.now ≤ t.now) : GrowsBy n s t :=
  ⟨⟨[ev], hh, hpos⟩, hn⟩

theorem trans (h : GrowsBy m s t) (h' : GrowsBy n t u) : GrowsBy (m + n) s u := by
  obtain ⟨⟨evs, hh, hl⟩, hn⟩ := h
  obtain ⟨⟨evs', hh', hl'⟩, hn'⟩ := h'
  exact ⟨⟨evs ++ evs', by simp [hh, hh'], by simp; omega⟩, hn.trans hn'⟩

theorem gpioSet (s : State) (l : Line) (v : Level) : GrowsBy 1 s (s.gpioSet l v) :=
  of_event Nat.one_pos (s.gpioSet_hist l v) (by simp)

theorem sleep (s : State) (d : Nat) : GrowsBy 1 s (s.sleep d) :=
  of_event Nat.one_pos (s.sleep_hist d) (by simp)

theorem driveStep (hpos : 0 < n) (s : State) (v : Level) (d : Nat) (q : Phase) : GrowsBy n s (s.driveStep v d q) := by
  refine of_event hpos (s.driveStep_hist v d q) ?_
  unfold State.driveStep
  split <;> simp

theorem holdStep (hpos : 0 < n) (s : State) (d : Nat) (r : Phase) : GrowsBy n s (s.holdStep d r) := by
  obtain h | h | ⟨-, h⟩ := s.holdStep_cases d r
  · exact of_event hpos (by rw [h]; rfl) (by simp [h])
  · exact of_event hpos (by rw [h]; rfl) (by simp [h])
  · exact ⟨⟨[], by simp [h]⟩, by simp [h]⟩

theorem phaseStep (hpos : 0 < n) (hp : s.ph ≠ .idle) : GrowsBy n s s.phaseStep := by
  obtain ⟨p, q, r, v, d, -, ⟨-, h⟩ | ⟨-, h⟩⟩ := State.phaseStep_row hp
  · rw [h]
    exact driveStep hpos s v d q
  · rw [h]
    exact (holdStep hpos s d r).trans (n := 0) of_same

theorem flightStep (hpos : 0 < n) (s : State) : GrowsBy n s s.flightStep := by
  obtain ⟨hh, hn⟩ | ⟨hh, hn⟩ := s.flightStep_hist
  · exact of_same hh hn
  · exact of_event hpos hh (by simp [hn])

theorem sendWhole (hpos : 0 < n) (s : State) (cmd : Byte) (pl : List Byte) : GrowsBy n s (s.sendWhole cmd pl) := by
  obtain ⟨-, h⟩ | ⟨e, -, h⟩ := s.sendWhole_cases cmd pl
  · exact of_event hpos (by rw [h]; rfl) (by simp [h, State.writeFrame])
  · rw [h]
    exact of_same

/-- A whole pulse train makes six calls (R125, R126). -/
theorem pulseWhole (s : State) (l : Line) : GrowsBy 6 s (s.pulseWhole l) := by
  have hcalls : GrowsBy 6 (s.latch l) ((s.latch l).pulseCalls l) :=
    ((((gpioSet _ l .low).trans (sleep _ _)).trans ((gpioSet _ l .high).trans (sleep _ _))).trans
      (gpioSet _ l .low)).trans (sleep _ _)
  have hend : GrowsBy 0 ((s.latch l).pulseCalls l) (s.pulseWhole l) := of_same rfl rfl
  exact ((of_same (n := 0)).trans hcalls).trans hend

theorem exec {i : Instr} (h : exec i s = .next t) : GrowsBy 6 s t := by
  obtain ⟨-, -, ⟨_, _, -, ⟨-, rfl⟩ | ⟨-, rfl⟩⟩ | ⟨cmd, pl, -, ⟨-, rfl⟩ | ⟨-, rfl⟩ | ⟨-, rfl⟩⟩ |
    ⟨l, -, -, ⟨-, rfl⟩ | ⟨-, rfl⟩⟩⟩ := exec_next h
  · exact of_same rfl rfl
  · exact of_same
  · exact sendWhole (by decide) s cmd pl
  · exact of_same
  · exact of_same
  · exact pulseWhole s l
  · exact of_same

end GrowsBy

end Sys2Proof.Safety
end

section
/-! ## Completing, or being in flight -/

namespace Sys2Proof.Safety
open Sys2Proof Sys2Proof.Machine

/-- From `s` to `t` the operation has ended: the block is idle, with one completion more, at the output (R27, R36). -/
def Completes (s t : State) : Prop := t.busy = false ∧ ∃ c, t.done = some c ∧ t.results = s.results ++ [c]

/-- In `t` an operation accepted in `s` is in flight (R26). -/
def Starts (s t : State) : Prop := t.busy = true ∧ t.done = none ∧ t.results = s.results

variable {s t : State} {cmd : Byte} {pl : List Byte}

theorem completes_complete (hp : t.ph = .idle) (hf : t.frame = []) (hr : t.results = s.results) (status : Status)
    (frame : Option (List Byte)) : Completes s (t.complete status frame) :=
  ⟨State.busy_eq_false.mpr ⟨hp, hf⟩, _, rfl, by simp [hr]⟩

theorem completes_encodeWhole (hp : s.ph = .idle) (hf : s.frame = []) : Completes s (s.encodeWhole cmd pl) :=
  completes_complete hp hf rfl _ _

theorem completes_sendWhole (hp : s.ph = .idle) (hf : s.frame = []) : Completes s (s.sendWhole cmd pl) := by
  obtain ⟨-, h⟩ | ⟨e, -, h⟩ := s.sendWhole_cases cmd pl
  · rw [h]
    exact completes_complete (t := s.txWrite _) hp hf rfl _ _
  · rw [h]
    exact completes_complete hp hf rfl _ _

theorem completes_pulseWhole (hp : s.ph = .idle) (hf : s.frame = []) (l : Line) : Completes s (s.pulseWhole l) :=
  ⟨State.busy_eq_false.mpr ⟨by simp [hp], by simp [hf]⟩, _, s.pulseWhole_done l, s.pulseWhole_results l⟩

theorem sendStart_completes_or_starts (hp : s.ph = .idle) (hf : s.frame = []) :
    Completes s (s.sendStart cmd pl) ∨ Starts s (s.sendStart cmd pl) := by
  obtain ⟨-, h⟩ | ⟨e, -, h⟩ := s.sendStart_cases cmd pl
  · rw [h]
    exact .inr ⟨State.busy_eq_true.mpr (.inr (List.ne_nil_of_length_pos (by simp))), rfl, rfl⟩
  · rw [h]
    exact .inl (completes_complete hp hf rfl _ _)

theorem portStart_completes_or_starts (hp : s.ph = .idle) (hf : s.frame = []) (dest : Destination) :
    Completes s (s.portStart dest cmd pl) ∨ Starts s (s.portStart dest cmd pl) := by
  obtain ⟨-, h⟩ | ⟨e, -, h⟩ := s.portStart_cases dest cmd pl
  · rw [h]
    refine .inr ⟨State.busy_eq_true.mpr (.inr ?_), by simp, by simp⟩
    rw [State.sealWhole_frame]
    split_ifs
    · exact sealFrame_ne_nil _
    · simp [frameHeader]
  · rw [h]
    exact .inl (completes_complete hp hf rfl _ _)

theorem starts_pulseStart (s : State) (l : Line) : Starts s (s.pulseStart l) :=
  ⟨State.busy_eq_true.mpr (.inl (by simp [State.pulseStart])), rfl, rfl⟩

/-- An accepted instruction has completed at once or is in flight (R27, R217). -/
theorem exec_completes_or_starts {i : Instr} (h : exec i s = .next t) : Completes s t ∨ Starts s t := by
  obtain ⟨hp, hf, ⟨_, _, -, ⟨-, rfl⟩ | ⟨-, rfl⟩⟩ | ⟨_, _, -, ⟨-, rfl⟩ | ⟨-, rfl⟩ | ⟨-, rfl⟩⟩ |
    ⟨l, -, -, ⟨-, rfl⟩ | ⟨-, rfl⟩⟩⟩ := exec_next h
  · exact .inl (completes_encodeWhole hp hf)
  · exact portStart_completes_or_starts hp hf _
  · exact .inl (completes_sendWhole hp hf)
  · exact sendStart_completes_or_starts hp hf
  · exact portStart_completes_or_starts hp hf _
  · exact .inl (completes_pulseWhole hp hf l)
  · exact .inr (starts_pulseStart s l)

end Sys2Proof.Safety
end

section
/-! ## The statements of 10_state.md on single steps -/

namespace Sys2Proof.Safety
open Sys2Proof Sys2Proof.Machine

/-- Settles O14: each code selects its branch of `decodeRequest`. -/
theorem requestCodes : Obligations.RequestCodes := by
  intro cmd len stream
  refine ⟨fun hlen hne => ?_, rfl, rfl, rfl, rfl⟩
  have hpl : decodePayload len stream = .ok (some stream) := by simp [decodePayload, hlen, hne]
  exact ⟨by simp [decode, decodeRequest, hpl, Except.map], by simp [decode, decodeRequest, hpl, Except.map]⟩

/-- Settles O16: an idle block serves its port. -/
theorem stepRunsDecoded : Obligations.StepRunsDecoded := by
  intro s w rest i hp hf hr hd
  rw [step_idle hp hf]
  simp [serve, hr, hd, State.accept, State.noDone]

/-- Settles O17: an idle block with nothing at its port waits. -/
theorem stepWaitsForRequest : Obligations.StepWaitsForRequest := by
  intro s hp hf hr
  rw [step_idle hp hf]
  simp [serve, hr, State.noDone]

/-- Settles O45: both parts of the invariant hold of an idle block with no frame, no driven line and no history. -/
theorem invAfterConstruction : Obligations.InvAfterConstruction :=
  NoFrame.blockInv ⟨rfl, rfl, rfl, rfl, rfl⟩
    (.of_idle rfl rfl ⟨fun l => by cases l <;> simp [State.line, State.reset], fun l => by cases l <;> rfl, rfl⟩)

/-- Settles O50, by the four things a step can do. -/
theorem parametersAreStatic : Obligations.ParametersAreStatic := by
  intro s t h
  obtain ⟨-, -, rfl⟩ | ⟨-, -, rfl⟩ | ⟨-, -, -, rfl⟩ | ⟨-, -, w, rest, i, -, -, hexec⟩ := step_next h
  · exact ⟨s.phaseStep_holds, s.phaseStep_realisation⟩
  · exact ⟨s.flightStep_holds, s.flightStep_realisation⟩
  · exact ⟨rfl, rfl⟩
  · exact (exec_static hexec :)

/-- Settles O49, by the four things a step can do: the longest, a whole pulse train, makes six calls. -/
theorem historyOnlyGrows : Obligations.HistoryOnlyGrows := by
  intro s t h
  obtain ⟨hp, -, rfl⟩ | ⟨-, -, rfl⟩ | ⟨-, -, -, rfl⟩ | ⟨-, -, w, rest, i, -, -, hexec⟩ := step_next h
  · exact GrowsBy.phaseStep (by decide) hp
  · exact GrowsBy.flightStep (by decide) s
  · exact GrowsBy.of_same
  · exact (GrowsBy.of_same (n := 0)).trans (GrowsBy.exec hexec)

/-- Settles O51: run whole, every instruction completes at once. -/
theorem oneCompletionPerRequest : Obligations.OneCompletionPerRequest := by
  intro i s t hr h
  have hcompletes : Completes s t := by
    obtain ⟨hp, hf, ⟨_, _, -, ⟨-, rfl⟩ | ⟨hr', -⟩⟩ | ⟨_, _, -, ⟨-, rfl⟩ | ⟨hr', -⟩ | ⟨hr', -⟩⟩ |
      ⟨l, -, -, ⟨-, rfl⟩ | ⟨hr', -⟩⟩⟩ := exec_next h
    · exact completes_encodeWhole hp hf
    · simp [hr] at hr'
    · exact completes_sendWhole hp hf
    · simp [hr] at hr'
    · simp [hr] at hr'
    · exact completes_pulseWhole hp hf l
    · exact absurd hr hr'
  obtain ⟨hbusy, c, hdone, hresults⟩ := hcompletes
  exact ⟨c, hdone, hresults, hbusy⟩

/-- Settles O32, by the three ways in which a SEND is accepted: only the whole one makes its write at once. -/
theorem sendTouchesNoLine : Obligations.SendTouchesNoLine := by
  intro i cmd pl s t hi h
  obtain ⟨-, -, ⟨-, rfl⟩ | ⟨-, rfl⟩ | ⟨-, rfl⟩⟩ := issueSend_next (issueSend_of_exec hi h)
  · refine ⟨by simp, by simp, by simp, by simp, by simp, by simp, by simp, ?_⟩
    obtain ⟨-, ht⟩ | ⟨e, -, ht⟩ := s.sendWhole_cases cmd pl
    · exact .inr (by rw [ht, buildFrame_eq_frameWords]; rfl)
    · exact .inl (by rw [ht]; rfl)
  · simp
  · simp

/-- Settles O42: an instruction touches no line but the one of its own pulse train, a row drives the active line alone, and
a frame none. -/
theorem linesAreIndependent : Obligations.LinesAreIndependent := by
  refine ⟨fun i s t h => ?_, fun s t l hp hl h => ?_, fun s t l hp hf h => ?_⟩
  · obtain ⟨-, -, ⟨_, _, -, ⟨-, rfl⟩ | ⟨-, rfl⟩⟩ | ⟨_, _, -, ⟨-, rfl⟩ | ⟨-, rfl⟩ | ⟨-, rfl⟩⟩ |
      ⟨l, ⟨rfl, rfl⟩ | ⟨rfl, rfl⟩, -, ⟨-, rfl⟩ | ⟨-, rfl⟩⟩⟩ := exec_next h <;> simp
  · obtain ⟨-, -, rfl⟩ | ⟨hp', -⟩ | ⟨hp', -⟩ | ⟨hp', -⟩ := step_next h
    · obtain ⟨p, q, r, v, d, -, ⟨-, hstep⟩ | ⟨-, hstep⟩⟩ := State.phaseStep_row hp
      · rw [hstep, State.line_driveStep_other s v d q hl]
      · rw [hstep, State.line_endTrain, State.line_holdStep]
    all_goals exact absurd hp' hp
  · rw [step_flight hp hf] at h
    cases h
    exact State.line_congr s.flightStep_resetLine s.flightStep_wakeLine l

/-- The row of a drive (R132). -/
theorem phaseTable_drive {s : State} {p q r : Phase} {v : Level} {d : Nat} (hl : s.holds.legal s.ln = true)
    (hrow : (p, q, r, v, d) ∈ holdRows s) (hp : s.ph = p) :
    ∃ t, step s = .next t ∧ t.ph = q ∧ t.hist = s.hist ++ [.gpioSet s.ln v] ∧ t.line s.ln = some v ∧ t.ln = s.ln ∧
      t.done = none :=
  ⟨_, step_drive hrow hl hp, by simp, by simp, by simp, by simp, by simp⟩

/-- The row of a hold that the clock keeps (R132). -/
theorem step_hold_slept {s : State} {p q r : Phase} {v : Level} {d : Nat} (hl : s.holds.legal s.ln = true)
    (hrow : (p, q, r, v, d) ∈ holdRows s) (hq : s.ph = q) (hc : s.realisation.counted = false) :
    step s = .next ((s.sleep d).toPhase r 0).endTrain := by
  rw [step_hold hrow hl hq, State.holdStep_slept hc]

/-- Settles O40: rows 1, 3 and 5 are drives, rows 2, 4 and 6 holds, and only row 6 leads back to phase 0. -/
theorem phaseTable : Obligations.PhaseTable := by
  intro s hl
  have row1 : (_, _, _, _, _) ∈ holdRows s := .head _
  have row2 : (_, _, _, _, _) ∈ holdRows s := .tail _ (.head _)
  have row3 : (_, _, _, _, _) ∈ holdRows s := .tail _ (.tail _ (.head _))
  refine ⟨phaseTable_drive hl row1, fun hq hc => ?_, phaseTable_drive hl row2, fun hq hc => ?_, phaseTable_drive hl row3, fun hq hc => ?_⟩
  · exact ⟨_, _, step_hold_slept hl row1 hq hc, rfl, rfl, Nat.le_add_right _ _, rfl, rfl, rfl, rfl⟩
  · exact ⟨_, _, step_hold_slept hl row2 hq hc, rfl, rfl, Nat.le_add_right _ _, rfl, rfl, rfl, rfl⟩
  · exact ⟨_, _, step_hold_slept hl row3 hq hc, rfl, rfl, Nat.le_add_right _ _, rfl, rfl, rfl, rfl⟩

end Sys2Proof.Safety
end

section
/-! ## A SEND cut into bytes, outside the ports -/

namespace Sys2Proof.Safety
open Sys2Proof Sys2Proof.Machine
variable {s : State} {k : Nat}

/-- `s` after `k` bytes more of the frame in flight have been handed over (R26). -/
def bytesOut (k : Nat) (s : State) : State := { s with done := if k = 0 then s.done else none, bi := s.bi + k }

/-- Outside the ports each step hands over one byte (log 19). -/
theorem runSteps_bytes (hp : s.ph = .idle) (hr : s.realisation ≠ .ported) (hk : s.bi + k ≤ s.frame.length) :
    runSteps k s = .next (bytesOut k s) := by
  induction k with
  | zero => rfl
  | succ k ih =>
    refine runSteps_concat (ih (by omega)) ?_
    have hf : (bytesOut k s).frame ≠ [] := List.ne_nil_of_length_pos (show 0 < s.frame.length by omega)
    have hb : (bytesOut k s).bi < (bytesOut k s).frame.length := show s.bi + k < s.frame.length by omega
    rw [step_flight (show (bytesOut k s).ph = .idle from hp) hf,
      State.flightStep_unported (show (bytesOut k s).realisation ≠ .ported from hr), State.sendStep_byte hb]
    rfl

/-- The write that ends a SEND cut into bytes leaves what the whole SEND's write leaves (R31, R111). -/
theorem discard_writeFrame {done : Option Completion} {frame bytes : List Byte} {bi : Nat} (h : Idle s) :
    (State.writeFrame { s with done := done, frame := frame, bi := bi } bytes).discard = s.writeFrame bytes := by
  obtain ⟨-, hf, hb, -⟩ := h
  cases s
  cases hf
  cases hb
  rfl

/-- Settles O36: the state after `k` bytes is known whole. -/
theorem bytesLeaveInOrder : Obligations.BytesLeaveInOrder := by
  intro s k hp _ hb hst hr hk
  refine ⟨_, runSteps_bytes hp hr (by omega), ?_⟩
  simp [bytesOut, State.frmValid, State.frmData, State.frmLast, hb, hst, hk]

/-- Settles O35: `n + 9` bytes leave one by one, and the step after the last makes the write. -/
theorem stepwiseSendAgrees : Obligations.StepwiseSendAgrees := by
  intro i cmd pl s hfit hi hidle hr
  obtain ⟨hp, hf, -, -⟩ := id hidle
  have hported : s.realisation ≠ .ported := by obtain hr | hr := hr <;> simp [hr]
  have hexec : exec i s = .next (s.sendStart cmd pl) := by
    rw [exec_eq_issueSend hfit hi, issueSend, State.ifIdle_idle hp hf]
    obtain hr | hr := hr <;> simp [hr]
  refine ⟨_, hexec, fun hacc => ?_, fun hacc => ?_⟩
  · have hstart : s.sendStart cmd pl = { s with done := none, frame := buildFrame cmd pl, bi := 0 } := by
      rw [State.sendStart, encodeFrame_of_accepted hacc]
    rw [hstart, sendPost_of_accepted hacc]
    refine runSteps_concat (k := pl.length + 9) (runSteps_bytes hp hported (by simp)) ?_
    rw [step_flight, State.flightStep_unported, State.sendStep_answer]
    · exact congrArg _ (discard_writeFrame hidle)
    · simp [bytesOut]
    · exact hported
    · exact hp
    · exact List.ne_nil_of_length_pos (by simp [bytesOut])
  · obtain ⟨e, he⟩ := encodeFrame_of_not_accepted hacc
    rw [State.sendStart, he, sendPost_of_error he]

end Sys2Proof.Safety
end

section
/-! ## A hold counted by the block -/

namespace Sys2Proof.Safety
open Sys2Proof Sys2Proof.Machine
variable {s : State} {p q r : Phase} {v : Level} {d k : Nat}

/-- `s`, at the start of a counted hold of `d`, after `k` clock periods of it (R133). -/
def counting (d k : Nat) (s : State) : State := { s with now := s.now + clockTime k, tick := periods d - k }

/-- The block is at the start of the counted hold of a row, its counter just loaded (R133). -/
structure HoldBegins (q : Phase) (d : Nat) (s : State) : Prop where
  counted : s.realisation.counted = true
  legal : s.holds.legal s.ln = true
  ph : s.ph = q
  tick : s.tick = periods d
  done : s.done = none

/-- A counted drive begins its hold (R133). -/
theorem holdBegins_driveStep (v : Level) (d : Nat) (q : Phase) (hc : s.realisation.counted = true)
    (hl : s.holds.legal s.ln = true) : HoldBegins q d (s.driveStep v d q) :=
  ⟨by simp [hc], by simp [hl], by simp, by rw [State.driveStep_counted hc]; rfl, by simp⟩

/-- In a counted hold each step is one clock period (R133). -/
theorem runSteps_counting (hrow : (p, q, r, v, d) ∈ holdRows s) (h : HoldBegins q d s) (hk : k < periods d) :
    runSteps k s = .next (counting d k s) := by
  obtain ⟨hc, hl, hq, ht, hd⟩ := id h
  induction k with
  | zero => simp [runSteps, counting, ← ht]
  | succ k ih =>
    refine runSteps_concat (ih (by omega)) ?_
    have hmore : 1 < (counting d k s).tick := show 1 < periods d - k by omega
    have hne : q ≠ .idle := by
      obtain ⟨-, rfl, -⟩ | ⟨-, rfl, -⟩ | ⟨-, rfl, -⟩ := holdRows_cases hrow <;> decide
    rw [step_hold (s := counting d k s) hrow hl hq, State.holdStep_counted (s := counting d k s) hc,
      State.countStep_more hmore, State.endTrain_busy (by simpa [counting, hq] using hne)]
    have htime := clockTime_add_periodTime (t := d) (k := k) (by omega)
    simp only [counting, State.elapse, State.toPhase, hd, ← htime]
    congr 2
    omega

/-- After its N(T) periods a counted hold is over, and its Sleep has elapsed their time (R133, log 22). -/
theorem runSteps_hold (hrow : (p, q, r, v, d) ∈ holdRows s) (h : HoldBegins q d s) :
    runSteps (periods d) s =
      .next (((s.elapse (heldFor d)).note (.sleep d (heldFor d))).toPhase r 0).endTrain := by
  have hpos := periods_pos (duration_pos hrow h.legal)
  obtain ⟨n, hn⟩ : ∃ n, periods d = n + 1 := ⟨periods d - 1, by omega⟩
  have hlast : (counting d n s).tick = 1 := show periods d - n = 1 by omega
  have htime : clockTime n + periodTime d 1 = heldFor d := by
    have := clockTime_add_periodTime (t := d) (k := n) (by omega)
    rwa [show periods d - n = 1 by omega, ← hn] at this
  rw [hn]
  refine runSteps_concat (runSteps_counting hrow h (by omega)) ?_
  rw [step_hold (s := counting d n s) hrow h.legal h.ph, State.holdStep_counted (s := counting d n s) h.counted,
    State.countStep_last hlast.le, hlast]
  simp only [counting, State.elapse, State.note, State.toPhase, ← htime]
  congr 3
  omega

/-- Settles O56: the drive takes no time, and each period of the hold its own (log 22). -/
theorem holdTimeInPeriods : Obligations.HoldTimeInPeriods := by
  intro s p q r v d hc hl hrow hp
  have hbegins := holdBegins_driveStep v d q hc hl
  have hrow' : (p, q, r, v, d) ∈ holdRows (s.driveStep v d q) := by
    rwa [holdRows_congr (s.driveStep_holds v d q) (s.driveStep_ln v d q)]
  have hnow : (s.driveStep v d q).now = s.now := by simp [State.driveStep_counted hc]
  refine ⟨_, step_drive hrow hl hp, hnow, fun k hk => ⟨_, runSteps_counting hrow' hbegins hk, ?_⟩,
    _, runSteps_hold hrow' hbegins, ?_, ?_⟩
  · simp [counting, hnow]
  · simp [hnow, heldFor]
  · simp [heldFor]

end Sys2Proof.Safety
end

section
/-! ## A transfer at the ports of R36, case by case -/

namespace Sys2Proof.Machine
open Sys2Proof
variable {s : State}

/-- A payload byte arrives (R36). -/
theorem State.transfer_payload {b : Byte} {rest : List Byte} (h : s.stream = b :: rest) :
    s.transfer = State.sealWhole { s with frame := s.frame ++ [b], stream := rest } := by
  rw [State.transfer, h]

/-- A frame byte leaves that does not end an ENCODE (R26, R36). -/
theorem State.transfer_byte (h : s.stream = []) (hb : s.bi < s.frame.length)
    (hlast : ¬ (s.dest = .caller ∧ s.bi + 1 = s.frame.length)) : s.transfer = { s with bi := s.bi + 1 } := by
  rw [State.transfer, h]
  exact (if_pos hb).trans (if_neg hlast)

/-- The last byte of an ENCODE's frame leaves (R36). -/
theorem State.transfer_last (h : s.stream = []) (hd : s.dest = .caller) (hb : s.bi + 1 = s.frame.length) :
    s.transfer = State.release (State.complete { s with bi := s.bi + 1 } .ok (some s.frame)) := by
  rw [State.transfer, h]
  exact (if_pos (by omega)).trans (if_pos ⟨hd, hb⟩)

/-- The transport answers once the frame of a SEND is over (R112). -/
theorem State.transfer_answer (h : s.stream = []) (hb : s.frame.length ≤ s.bi) :
    s.transfer = (s.writeFrame s.frame).release := by
  rw [State.transfer, h]
  exact if_neg (Nat.not_lt.mpr hb)

@[simp] theorem State.transfer_waits (s : State) : s.transfer.waits = s.waits := by
  obtain ⟨b, rest, -, h⟩ | ⟨-, -, -, h⟩ | ⟨-, -, -, -, h⟩ | ⟨-, -, h⟩ := s.transfer_cases <;>
    simp [h, State.writeFrame]

@[simp] theorem State.transfer_transfers (s : State) : s.transfer.transfers = s.transfers := by
  obtain ⟨b, rest, -, h⟩ | ⟨-, -, -, h⟩ | ⟨-, -, -, -, h⟩ | ⟨-, -, h⟩ := s.transfer_cases <;>
    simp [h, State.writeFrame]

@[simp] theorem State.portStart_waits (s : State) (dest : Destination) (cmd : Byte) (pl : List Byte) :
    (s.portStart dest cmd pl).waits = s.waits := by
  obtain ⟨-, h⟩ | ⟨e, -, h⟩ := s.portStart_cases dest cmd pl <;> simp [h]

@[simp] theorem State.portStart_transfers (s : State) (dest : Destination) (cmd : Byte) (pl : List Byte) :
    (s.portStart dest cmd pl).transfers = s.transfers := by
  obtain ⟨-, h⟩ | ⟨e, -, h⟩ := s.portStart_cases dest cmd pl <;> simp [h]

/-- A frame of which a byte is missing stays open (R223). -/
theorem State.sealWhole_of_ne_nil (h : s.stream ≠ []) : s.sealWhole = s := if_neg h

/-- A frame of which no byte is missing is closed (R223). -/
theorem State.sealWhole_of_nil (h : s.stream = []) : s.sealWhole = { s with frame := sealFrame s.frame } := if_pos h

end Sys2Proof.Machine

namespace Sys2Proof.Safety
open Sys2Proof Sys2Proof.Machine

/-- A step of the frame in flight at the ports is one cycle (R36). -/
theorem step_port {s : State} (hp : s.ph = .idle) (hf : s.frame ≠ []) (hr : s.realisation = .ported) :
    step s = .next s.portStep := by
  rw [step_flight hp hf, State.flightStep_ported hr]

/-- Settles O57, by the case of `transfer` that applies to each port. -/
theorem portCycle : Obligations.PortCycle := by
  intro s hp hf hr
  have hready : s.sideReady = true → step s = .next s.transferCycle.transfer := fun h => by
    rw [step_port hp hf hr, State.portStep_ready h]
  refine ⟨fun h => ?_, fun b rest hst => ?_, fun hst hb => ?_⟩
  · rw [step_port hp hf hr, State.portStep_waits h]
  · have hpl : s.plValid = s.sideReady := by simp [State.plValid, State.plReady, hst]
    refine ⟨by simp [State.plReady, hst], by simp [State.plData, hst], hpl, by simp [State.frmValid, hst], fun h => ?_⟩
    refine ⟨_, hready (hpl ▸ h), ?_⟩
    rw [State.transfer_payload (s := s.transferCycle) hst]
    simp
  · have hvalid : s.frmValid = true := by simp [State.frmValid, hst, hb]
    have hfrm : s.frmReady = s.sideReady := by simp [State.frmReady, hvalid]
    have hlast : s.frmLast = true ↔ s.bi + 1 = s.frame.length := by simp [State.frmLast]
    refine ⟨by simp [State.plReady, hst], hvalid, hfrm, rfl, hlast, fun h hno => ?_, fun h hd hl => ?_⟩
    · rw [hready (hfrm ▸ h), State.transfer_byte (s := s.transferCycle) hst hb (by rwa [hlast] at hno)]
      rfl
    · refine ⟨_, hready (hfrm ▸ h), ?_⟩
      rw [State.transfer_last (s := s.transferCycle) hst hd (hlast.mp hl)]
      simp

end Sys2Proof.Safety
end

section
/-! ## Runs of transfers -/

namespace Sys2Proof.Safety
open Sys2Proof Sys2Proof.Machine
variable {s t u : State} {m n k : Nat}

/-- The cycles of some transfers depend on the waits alone (R36). -/
theorem portCycles_congr (hw : t.waits = s.waits) (ht : t.transfers = s.transfers) :
    portCycles m t = portCycles m s := by
  simp [portCycles, waitAt, hw, ht]

/-- From `s` on, `m` transfers at the ports lead to `t`, each with the cycles the other side makes the block wait (R36). -/
structure Transfers (m : Nat) (s t : State) : Prop where
  run : runSteps (portCycles m s) s = .next t
  waits : t.waits = s.waits.drop m
  transfers : t.transfers = s.transfers + m

theorem Transfers.refl (s : State) : Transfers 0 s s := ⟨rfl, rfl, rfl⟩

theorem Transfers.trans (h : Transfers m s t) (h' : Transfers n t u) : Transfers (m + n) s u := by
  have hwait : ∀ j, waitAt t j = waitAt s (m + j) := fun j => by
    simp [waitAt, h.waits, h.transfers, Nat.add_assoc]
  have hcycles : portCycles (m + n) s = portCycles m s + portCycles n t := by
    simp [portCycles, List.range_add, Function.comp_def, hwait]
  refine ⟨?_, by rw [h'.waits, h.waits, List.drop_drop], by rw [h'.transfers, h.transfers, Nat.add_assoc]⟩
  rw [hcycles, runSteps_add h.run, h'.run]

/-- A frame is in flight at the ports and the block has not begun to wait for the next transfer (R36). -/
structure AtPorts (s : State) : Prop where
  idle : s.ph = .idle
  frame : s.frame ≠ []
  ported : s.realisation = .ported
  waited : s.waited = 0
  done : s.done = none

/-- The block waits the cycles still missing, and then the transfer takes place (R36). -/
theorem runSteps_wait (hp : s.ph = .idle) (hf : s.frame ≠ []) (hr : s.realisation = .ported)
    (hn : s.nextWait = s.waited + n) : runSteps (n + 1) s = .next s.transferCycle.transfer := by
  induction n generalizing s with
  | zero =>
    rw [runSteps_succ (step_port hp hf hr), State.portStep_ready (by simp [State.sideReady, hn])]
    rfl
  | succ n ih =>
    rw [runSteps_succ (step_port hp hf hr), State.portStep_waits (by simp [State.sideReady, hn])]
    refine ih (s := s.waitCycle) hp hf hr ?_
    rw [show s.waitCycle.nextWait = s.nextWait from rfl, hn, State.waitCycle_waited]
    omega

theorem AtPorts.transfers_one (h : AtPorts s) : Transfers 1 s s.transferCycle.transfer := by
  have hcycles : portCycles 1 s = s.nextWait + 1 := by
    simp [portCycles, waitAt, State.nextWait, List.head?_eq_getElem?]
  exact ⟨by rw [hcycles, runSteps_wait h.idle h.frame h.ported (by simp [h.waited])], by simp, by simp⟩

/-- `s`, with payload bytes awaited, once they have arrived (R36, R223). -/
def payloadIn (s : State) : State :=
  { afterTransfers s.stream.length s with frame := sealFrame (s.frame ++ s.stream), stream := [] }

/-- The payload arrives byte by byte (R36). -/
theorem AtPorts.transfers_payload (h : AtPorts s) : Transfers s.stream.length s.sealWhole (payloadIn s) := by
  obtain ⟨bytes, hst⟩ : ∃ bytes, bytes = s.stream := ⟨_, rfl⟩
  induction bytes generalizing s with
  | nil =>
    have hseal : s.sealWhole = payloadIn s := by
      rw [State.sealWhole_of_nil hst.symm]
      simp [payloadIn, afterTransfers, ← hst]
    rw [← hst, hseal]
    exact .refl _
  | cons b rest ih =>
    have hone := h.transfers_one
    rw [State.transfer_payload (s := s.transferCycle) hst.symm] at hone
    have hrest := ih (s := { s.transferCycle with frame := s.frame ++ [b], stream := rest })
      ⟨h.idle, by simp, h.ported, rfl, rfl⟩ rfl
    have hall := hone.trans hrest
    rw [State.sealWhole_of_ne_nil (by simp [← hst])]
    convert hall using 1
    · simp [← hst, Nat.add_comm]
    · simp [payloadIn, afterTransfers, State.transferCycle, ← hst, h.waited, h.done, Nat.add_assoc, Nat.add_comm]

/-- Frame bytes leave one by one, as long as none of them ends an ENCODE (R26, R36). -/
theorem AtPorts.transfers_bytes (h : AtPorts s) (hst : s.stream = []) (hk : s.bi + k ≤ s.frame.length)
    (hd : s.dest = .caller → s.bi + k < s.frame.length) :
    Transfers k s { afterTransfers k s with bi := s.bi + k } := by
  induction k with
  | zero => exact .refl s
  | succ k ih =>
    have hports : AtPorts { afterTransfers k s with bi := s.bi + k } :=
      ⟨h.idle, h.frame, h.ported, h.waited, h.done⟩
    have hone := hports.transfers_one
    have hlast : ¬ (s.dest = .caller ∧ s.bi + k + 1 = s.frame.length) := fun ⟨hc, he⟩ => by
      have := hd hc
      omega
    rw [State.transfer_byte (by exact hst) (show s.bi + k < s.frame.length by omega) hlast] at hone
    convert (ih (by omega) fun hc => by have := hd hc; omega).trans hone using 1
    simp [afterTransfers, State.transferCycle, h.waited, h.done, Nat.add_assoc]

/-! ## An ENCODE or a SEND at the ports, from acceptance -/

section
variable {cmd : Byte} {pl : List Byte} {dest : Destination}

/-- `s` with the frame of `(cmd, pl)` in flight at the ports, its payload whole and `k` of its bytes handed over (R36). -/
def portFlight (dest : Destination) (cmd : Byte) (pl : List Byte) (k : Nat) (s : State) : State :=
  { afterTransfers (pl.length + k) s with
    done := none, frame := buildFrame cmd pl, stream := [], bi := k, dest := dest }

theorem atPorts_portFlight (h : PortIdle s) (hr : s.realisation = .ported) : AtPorts (portFlight dest cmd pl k s) := by
  obtain ⟨⟨hp, -, -, -⟩, -, -, hw⟩ := h
  exact ⟨hp, List.ne_nil_of_length_pos (by simp [portFlight]), hr, hw, rfl⟩

/-- After acceptance the payload arrives and `k` bytes of the frame leave (R36). -/
theorem transfers_portStart (h : PortIdle s) (hr : s.realisation = .ported) (hacc : Accepted cmd pl)
    (hk : k ≤ pl.length + 9) (hd : dest = .caller → k < pl.length + 9) :
    Transfers (pl.length + k) (s.portStart dest cmd pl) (portFlight dest cmd pl k s) := by
  obtain ⟨⟨hp, -, -, -⟩, -, -, hw⟩ := id h
  have hports : AtPorts { s with done := none, frame := frameHeader cmd pl, stream := pl, bi := 0, dest := dest } :=
    ⟨hp, by simp [frameHeader], hr, hw, rfl⟩
  have hpayload := hports.transfers_payload
  rw [payloadIn, sealFrame_header] at hpayload
  have hbytes := (atPorts_portFlight (k := 0) (dest := dest) (cmd := cmd) (pl := pl) h hr).transfers_bytes (k := k) rfl
    (by simpa [portFlight] using hk) (by simpa [portFlight] using hd)
  rw [State.portStart, encodeFrame_of_accepted hacc]
  convert hpayload.trans hbytes using 1
  simp [portFlight, afterTransfers, Nat.add_assoc]

/-- The cycles of `m` transfers from acceptance on lead to `t`, if `m` transfers do (R36). -/
theorem Transfers.run_portStart (h : Transfers m (s.portStart dest cmd pl) t) :
    runSteps (portCycles m s) (s.portStart dest cmd pl) = .next t := by
  rw [← h.run, portCycles_congr (s.portStart_waits dest cmd pl) (s.portStart_transfers dest cmd pl)]

/-- A cycle of a frame in flight at the ports in which both sides are ready uses up one wait more (R36). -/
theorem transferCycle_portFlight :
    (portFlight dest cmd pl k s).transferCycle =
      { afterTransfers (pl.length + k + 1) s with
        done := none, frame := buildFrame cmd pl, stream := [], bi := k, dest := dest, waited := 0 } := by
  simp [portFlight, afterTransfers, State.transferCycle, Nat.add_assoc]

/-- The last byte of an ENCODE's frame leaves what the whole ENCODE leaves, the waits aside (R36, R90). -/
theorem transfer_portFlight_last (h : PortIdle s) :
    (portFlight .caller cmd pl (pl.length + 8) s).transferCycle.transfer =
      afterTransfers (2 * pl.length + 9) (s.complete .ok (some (buildFrame cmd pl))) := by
  obtain ⟨⟨-, hf, hb, -⟩, hst, hd, hw⟩ := h
  rw [transferCycle_portFlight, State.transfer_last rfl rfl (by simp),
    show 2 * pl.length + 9 = pl.length + (pl.length + 8) + 1 by omega]
  cases s
  cases hf; cases hb; cases hst; cases hd; cases hw
  rfl

/-- The transport's answer leaves what the whole SEND leaves, the waits aside (R36, R111). -/
theorem transfer_portFlight_answer (h : PortIdle s) :
    (portFlight .transport cmd pl (pl.length + 9) s).transferCycle.transfer =
      afterTransfers (2 * pl.length + 10) (s.writeFrame (buildFrame cmd pl)) := by
  obtain ⟨⟨-, hf, hb, -⟩, hst, hd, hw⟩ := h
  rw [transferCycle_portFlight, State.transfer_answer rfl (by simp),
    show 2 * pl.length + 10 = pl.length + (pl.length + 9) + 1 by omega]
  cases s
  cases hf; cases hb; cases hst; cases hd; cases hw
  rfl

end

/-- Settles O58: after `n` payload bytes and `n + 8` frame bytes the last byte ends the ENCODE. -/
theorem portedEncodeAgrees : Obligations.PortedEncodeAgrees := by
  intro cmd payload s h hr
  obtain ⟨⟨hp, hf, -, -⟩, -, -, -⟩ := id h
  have hexec : exec (.encode cmd payload) s = .next (s.portStart .caller cmd (payload.getD [])) := by
    change execEncode cmd payload s = _
    rw [execEncode, State.ifIdle_idle hp hf, hr]
    rfl
  generalize payload.getD [] = pl at hexec ⊢
  refine ⟨_, hexec, fun hacc => ?_, fun hacc => ?_⟩
  · rw [encodePost_of_accepted hacc, ← transfer_portFlight_last h]
    have hlast := (transfers_portStart (dest := .caller) (k := pl.length + 8) h hr hacc (by omega) (by omega)).trans
      (atPorts_portFlight h hr).transfers_one
    rw [show pl.length + (pl.length + 8) + 1 = 2 * pl.length + 9 by omega] at hlast
    exact hlast.run_portStart
  · obtain ⟨e, he⟩ := encodeFrame_of_not_accepted hacc
    rw [State.portStart, he, encodePost_of_error he]

/-- Settles O59: after `n` payload bytes and `n + 9` frame bytes the transport's answer ends the SEND. -/
theorem portedSendAgrees : Obligations.PortedSendAgrees := by
  intro i cmd pl s hfit hi h hr
  obtain ⟨⟨hp, hf, -, -⟩, -, -, -⟩ := id h
  have hexec : exec i s = .next (s.portStart .transport cmd pl) := by
    rw [exec_eq_issueSend hfit hi, issueSend, State.ifIdle_idle hp hf, hr]
  refine ⟨_, hexec, fun hacc => ?_, fun hacc => ?_⟩
  · rw [sendPost_of_accepted hacc, ← transfer_portFlight_answer h]
    have hlast := (transfers_portStart (dest := .transport) (k := pl.length + 9) h hr hacc (by omega) (by simp)).trans
      (atPorts_portFlight h hr).transfers_one
    rw [show pl.length + (pl.length + 9) + 1 = 2 * pl.length + 10 by omega] at hlast
    exact hlast.run_portStart
  · obtain ⟨e, he⟩ := encodeFrame_of_not_accepted hacc
    rw [State.portStart, he, sendPost_of_error he]

end Sys2Proof.Safety
end

section
/-! ## The completion always comes -/

namespace Sys2Proof.Safety
open Sys2Proof Sys2Proof.Machine
variable {s t : State}

/-- What is left of the operation in flight, in an order that every step descends: the rows of R132, the payload bytes and the
frame bytes still to pass; and, until the next of these, the clock periods of the hold and the cycles of waiting. -/
def workLeft (s : State) : ℕ ×ₗ ℕ :=
  toLex ((6 - s.ph.index) + s.stream.length + ((wholeFrame s).length + 1 - s.bi), s.tick + (s.nextWait - s.waited))

/-- `t` is one step on in the operation in flight in `s` (R217). -/
def Advances (s t : State) : Prop := t.busy = true ∧ t.results = s.results ∧ workLeft t < workLeft s

/-- The next row of a pulse train is one step on (R132). -/
theorem advances_of_row (hp : t.ph.index = s.ph.index + 1) (hph : t.ph ≠ .idle) (hr : t.results = s.results)
    (hf : t.frame = s.frame := by simp) (hst : t.stream = s.stream := by simp) (hb : t.bi = s.bi := by simp) :
    Advances s t := by
  refine ⟨State.busy_eq_true.mpr (.inl hph), hr, Prod.Lex.toLex_lt_toLex.mpr (.inl ?_)⟩
  have hle : t.ph.index ≤ 6 := by cases t.ph <;> decide
  have hwhole : wholeFrame t = wholeFrame s := by simp [wholeFrame, hf, hst]
  rw [hwhole, hst, hb]
  omega

/-- A clock period or a cycle of waiting is one step on. -/
theorem advances_of_wait (hbusy : t.busy = true) (hr : t.results = s.results) (hp : t.ph = s.ph := by simp)
    (hf : t.frame = s.frame := by simp) (hst : t.stream = s.stream := by simp) (hb : t.bi = s.bi := by simp)
    (hlt : t.tick + (t.nextWait - t.waited) < s.tick + (s.nextWait - s.waited)) : Advances s t := by
  have hwhole : wholeFrame t = wholeFrame s := by simp [wholeFrame, hf, hst]
  exact ⟨hbusy, hr, Prod.Lex.toLex_lt_toLex.mpr (.inr ⟨by rw [hp, hwhole, hst, hb], hlt⟩)⟩

/-- A byte that passes is one step on (R26, R36). -/
theorem advances_of_byte (hf : t.frame ≠ []) (hr : t.results = s.results) (hp : t.ph = s.ph)
    (hlt : t.stream.length + ((wholeFrame t).length + 1 - t.bi) <
      s.stream.length + ((wholeFrame s).length + 1 - s.bi)) : Advances s t := by
  refine ⟨State.busy_eq_true.mpr (.inr hf), hr, Prod.Lex.toLex_lt_toLex.mpr (.inl ?_)⟩
  rw [hp]
  omega

/-- A step of a pulse train ends it or is one step on (R132, R133). -/
theorem phaseStep_advances (hp : s.ph ≠ .idle) (hf : s.frame = []) :
    Completes s s.phaseStep ∨ Advances s s.phaseStep := by
  obtain ⟨p, q, r, v, d, hrow, ⟨hph, hstep⟩ | ⟨hph, hstep⟩⟩ := State.phaseStep_row hp
  · have hnext : q.index = s.ph.index + 1 ∧ q ≠ .idle := by
      obtain ⟨rfl, rfl, -⟩ | ⟨rfl, rfl, -⟩ | ⟨rfl, rfl, -⟩ := holdRows_cases hrow <;> simp [hph, Phase.index]
    rw [hstep]
    exact .inr (advances_of_row (by simp [hnext]) (by simp [hnext]) (by simp))
  · have hnext : r = .idle ∨ (r.index = s.ph.index + 1 ∧ r ≠ .idle) := by
      obtain ⟨-, rfl, rfl, -⟩ | ⟨-, rfl, rfl, -⟩ | ⟨-, rfl, rfl, -⟩ := holdRows_cases hrow <;> simp [hph, Phase.index]
    rw [hstep]
    have hover (hr : (s.holdStep d r).ph = r) :
        Completes s (s.holdStep d r).endTrain ∨ Advances s (s.holdStep d r).endTrain := by
      obtain hidle | ⟨hindex, hne⟩ := hnext
      · rw [State.endTrain_idle (hr.trans hidle)]
        exact .inl (completes_complete (hr.trans hidle) (by simp [hf]) (by simp) _ _)
      · rw [State.endTrain_busy (by rwa [hr])]
        exact .inr (advances_of_row (by rw [hr, hindex]) (by rwa [hr]) (by simp))
    obtain h | h | ⟨htick, h⟩ := s.holdStep_cases d r
    · exact hover (by rw [h]; rfl)
    · exact hover (by rw [h]; rfl)
    · rw [h, State.endTrain_busy (by exact hp)]
      refine .inr (advances_of_wait (State.busy_eq_true.mpr (.inl hp)) rfl rfl rfl rfl rfl ?_)
      change s.tick - 1 + (s.nextWait - s.waited) < _
      omega

/-- A frame byte that leaves is one step on (R26). -/
theorem advances_of_byteOut (hb : s.bi < s.frame.length) (hst : s.stream = []) (hbi : t.bi = s.bi + 1)
    (hf : t.frame = s.frame) (hst' : t.stream = s.stream) (hr : t.results = s.results) (hp : t.ph = s.ph) :
    Advances s t := by
  refine advances_of_byte (hf ▸ List.ne_nil_of_length_pos (Nat.zero_lt_of_lt hb)) hr hp ?_
  rw [wholeFrame_of_stream_nil (hst'.trans hst), wholeFrame_of_stream_nil hst, hst', hf, hbi]
  omega

/-- A byte of a SEND, or the answer after the last (R26). -/
theorem sendStep_advances (h : FrameInFlight s) (hst : s.stream = []) :
    Completes s s.sendStep ∨ Advances s s.sendStep := by
  by_cases hb : s.bi < s.frame.length
  · rw [State.sendStep_byte hb]
    exact .inr (advances_of_byteOut hb hst rfl rfl rfl rfl rfl)
  · rw [State.sendStep_answer (Nat.le_of_not_lt hb)]
    exact .inl ⟨State.busy_eq_false.mpr ⟨h.idle, rfl⟩, _, rfl, rfl⟩

/-- A cycle at the ports with both sides ready (R36). -/
theorem transfer_advances (h : FrameInFlight s) :
    Completes s s.transferCycle.transfer ∨ Advances s s.transferCycle.transfer := by
  obtain ⟨b, rest, hst, ht⟩ | ⟨hst, hb, -, ht⟩ | ⟨hst, -, -, -, ht⟩ | ⟨hst, -, ht⟩ :=
    State.transfer_cases s.transferCycle
  · rw [State.transferCycle_stream] at hst
    have hwhole : wholeFrame s = sealFrame (s.frame ++ b :: rest) := by simp [wholeFrame, hst]
    rw [ht]
    refine .inr (advances_of_byte ?_ (by simp) (by simp) ?_)
    · rw [State.sealWhole_frame]
      split_ifs <;> simp [sealFrame]
    · rw [wholeFrame_sealWhole, hwhole, hst]
      simp
  · rw [ht]
    exact .inr (advances_of_byteOut hb hst rfl rfl rfl rfl rfl)
  · rw [ht]
    exact .inl ⟨State.busy_eq_false.mpr ⟨by simp [h.idle], rfl⟩, _, rfl, by simp⟩
  · rw [ht]
    exact .inl ⟨State.busy_eq_false.mpr ⟨by simp [h.idle], rfl⟩, _, rfl, by simp [State.writeFrame]⟩

/-- A step of a frame in flight ends it or is one step on (R26, R36). -/
theorem flightStep_advances (h : FrameInFlight s) : Completes s s.flightStep ∨ Advances s s.flightStep := by
  by_cases hr : s.realisation = .ported
  · rw [State.flightStep_ported hr]
    cases hready : s.sideReady with
    | false =>
      have hwait : s.waited < s.nextWait := by simpa [State.sideReady] using hready
      rw [State.portStep_waits hready]
      refine .inr (advances_of_wait (State.busy_eq_true.mpr (.inr h.frame)) rfl rfl rfl rfl rfl ?_)
      change s.tick + (s.nextWait - (s.waited + 1)) < _
      omega
    | true =>
      rw [State.portStep_ready hready]
      exact transfer_advances h
  · rw [State.flightStep_unported hr]
    obtain ⟨hst, -, -⟩ := h.unported hr
    exact sendStep_advances h hst

/-- A busy block that meets the invariant makes a step that ends its operation or is one step on, its port waiting
(R53, R217). -/
theorem busy_step (h : BlockInv s) (hb : s.busy = true) :
    ∃ t, step s = .next t ∧ BlockInv t ∧ t.requests = s.requests ∧ (Completes s t ∨ Advances s t) := by
  by_cases hp : s.ph = .idle
  · have hf : s.frame ≠ [] := (State.busy_eq_true.mp hb).resolve_left (not_not.mpr hp)
    exact ⟨_, step_flight hp hf, h.flightStep hf, s.flightStep_requests, flightStep_advances (h.frameInFlight hf)⟩
  · exact ⟨_, step_train hp (h.legalHolds hp), h.phaseStep hp, s.phaseStep_requests,
      phaseStep_advances hp (h.oneInFlight hp)⟩

/-- The operation in flight runs to its completion, the port waiting (R217). -/
theorem runs_to_completion (h : BlockInv s) (hb : s.busy = true) :
    ∃ k u, runSteps k s = .next u ∧ Completes s u ∧
      ∀ j, j ≤ k → ∃ w, runSteps j s = .next w ∧ w.requests = s.requests ∧
        (j < k → w.busy = true ∧ w.results = s.results) := by
  obtain ⟨n, hn⟩ : ∃ n, workLeft s = n := ⟨_, rfl⟩
  induction n using WellFoundedLT.induction generalizing s with
  | ind n ih =>
    obtain ⟨t, hstep, hinv, hreq, hdone | ⟨hbusy, hres, hlt⟩⟩ := busy_step h hb
    · refine ⟨1, t, runSteps_succ hstep, hdone, fun j hj => ?_⟩
      obtain rfl | rfl : j = 0 ∨ j = 1 := by omega
      · exact ⟨s, rfl, rfl, fun _ => ⟨hb, rfl⟩⟩
      · exact ⟨t, runSteps_succ hstep, hreq, fun hlt => absurd hlt (Nat.lt_irrefl 1)⟩
    · obtain ⟨k, u, hrun, ⟨hidle, c, hc, hresults⟩, hbefore⟩ := ih _ (hn ▸ hlt) hinv hbusy rfl
      refine ⟨k + 1, u, (runSteps_succ hstep).trans hrun, ⟨hidle, c, hc, hres ▸ hresults⟩, fun j hj => ?_⟩
      cases j with
      | zero => exact ⟨s, rfl, rfl, fun _ => ⟨hb, rfl⟩⟩
      | succ j =>
        obtain ⟨w, hw, hwreq, hwbusy⟩ := hbefore j (by omega)
        refine ⟨w, (runSteps_succ hstep).trans hw, hwreq.trans hreq, fun hlt => ?_⟩
        obtain ⟨hwb, hwr⟩ := hwbusy (by omega)
        exact ⟨hwb, hwr.trans hres⟩

/-- Settles O60: what is left of the operation descends until it completes, and an accepted instruction has completed or is
in flight. -/
theorem completionAlwaysComes : Obligations.CompletionAlwaysComes := by
  refine ⟨fun s h hb => ?_, fun i s t h => exec_completes_or_starts h⟩
  obtain ⟨k, u, hrun, ⟨hidle, c, hc, hresults⟩, hbefore⟩ := runs_to_completion h hb
  exact ⟨k, u, c, hrun, hidle, hc, hresults, hbefore⟩

end Sys2Proof.Safety
end

section
/-! ## The bytes of a frame by their offsets, and numeric arguments within them -/

namespace Sys2Proof.Safety
open Sys2Proof Sys2Proof.Machine
variable {cmd : Byte} {pl bytes : List Byte} {args : List Nat} {j k v : Nat}

/-- The encoder answers only the frame of accepted operands (R90 to R92). -/
theorem accepted_and_eq_of_encodeFrame (h : encodeFrame cmd pl = .ok bytes) :
    Accepted cmd pl ∧ bytes = buildFrame cmd pl := by
  have hacc : Accepted cmd pl := by
    by_contra hn
    obtain ⟨e, he⟩ := encodeFrame_of_not_accepted hn
    cases h.symm.trans he
  exact ⟨hacc, Except.ok.inj (h.symm.trans (encodeFrame_of_accepted hacc))⟩

/-- The first four bytes are the start byte, LEN and the command (R51). -/
theorem buildFrame_getElem?_header (cmd : Byte) (pl : List Byte) (hk : k < 4) :
    (buildFrame cmd pl)[k]? = [Config.startByte, hi8 (pl.length + 9), lo8 (pl.length + 9), cmd][k]? := by
  rw [buildFrame_eq_cons]
  exact List.getElem?_append_left (l₁ := [_, _, _, _]) hk

/-- From offset 4 on stand the payload, the trailer and the checksum (R51). -/
theorem buildFrame_drop_header (cmd : Byte) (pl : List Byte) :
    (buildFrame cmd pl).drop 4 = pl ++ (Config.trailer ++ [xorFold (frameWithoutChecksum cmd pl)]) := by
  rw [buildFrame_eq_cons]
  rfl

/-- Payload byte `k` stands at offset `4 + k` (R51). -/
theorem buildFrame_getElem?_payload (hk : k < pl.length) : (buildFrame cmd pl)[4 + k]? = pl[k]? := by
  rw [← List.getElem?_drop, buildFrame_drop_header, List.getElem?_append_left hk]

/-- After a payload of `n` bytes, the trailer and the checksum stand from offset `4 + n` on (R51). -/
theorem buildFrame_getElem?_tail (cmd : Byte) (pl : List Byte) (k : Nat) :
    (buildFrame cmd pl)[4 + k + pl.length]? =
      (Config.trailer ++ [xorFold (frameWithoutChecksum cmd pl)])[k]? := by
  rw [Nat.add_assoc, ← List.getElem?_drop, buildFrame_drop_header,
    List.getElem?_append_right (Nat.le_add_left _ _), Nat.add_sub_cancel]

/-- Argument `j` stands in the numeric payload at `2j` and `2j + 1`, the high byte first (R69, R151). -/
theorem numericPayload_getElem? (h : args[j]? = some v) :
    (numericPayload args)[2 * j]? = some (hi8 v) ∧ (numericPayload args)[2 * j + 1]? = some (lo8 v) := by
  induction args generalizing j with
  | nil => simp at h
  | cons a args ih =>
    cases j with
    | zero =>
      obtain rfl : a = v := by simpa using h
      exact ⟨rfl, rfl⟩
    | succ j => exact ih h

/-- Settles O2, by the three parts of a frame: the header, the payload, and the trailer with the checksum. -/
theorem frameByteMap : Obligations.FrameByteMap := by
  intro cmd pl bytes h
  obtain ⟨-, rfl⟩ := accepted_and_eq_of_encodeFrame h
  have hhead := fun k (hk : k < 4) => buildFrame_getElem?_header cmd pl hk
  have hpayload : ((buildFrame cmd pl).drop 4).take pl.length = pl := by
    rw [buildFrame_drop_header, List.take_left]
  have htail := buildFrame_getElem?_tail cmd pl
  have hsum : (buildFrame cmd pl)[8 + pl.length]? = some (xorFold ((buildFrame cmd pl).take (8 + pl.length))) := by
    rw [Nat.add_comm, buildFrame_take, Nat.add_comm]
    exact htail 4
  exact ⟨buildFrame_length cmd pl, hhead 0 (by decide), hhead 1 (by decide), hhead 2 (by decide), hhead 3 (by decide),
    hpayload, htail 0, htail 1, htail 2, htail 3, hsum⟩

/-- Settles O8: argument `j` by its offset in the payload, and the payload by its offset in the frame. -/
theorem fieldReadsBack : Obligations.FieldReadsBack := by
  intro cmd args bytes j v h hv hle
  obtain ⟨-, rfl⟩ := accepted_and_eq_of_encodeFrame h
  obtain ⟨hhi, hlo⟩ := numericPayload_getElem? hv
  obtain ⟨hhiLt, -⟩ := List.getElem?_eq_some_iff.mp hhi
  obtain ⟨hloLt, -⟩ := List.getElem?_eq_some_iff.mp hlo
  refine ⟨?_, ?_, fromBe16_hi8_lo8 (Nat.lt_succ_of_le hle)⟩
  · exact (buildFrame_getElem?_payload hhiLt).trans hhi
  · rw [show 5 + 2 * j = 4 + (2 * j + 1) by omega]
    exact (buildFrame_getElem?_payload hloLt).trans hlo

end Sys2Proof.Safety
end

section
/-! ## The decoder against the encoder -/

namespace Sys2Proof.Safety
open Sys2Proof Sys2Proof.Machine
variable {cmd : Byte} {payload : Option (List Byte)} {pl bytes rest : List Byte} {i : Instr}

/-- The request port gives back every payload it can carry (R36). -/
theorem decodePayload_of_wellFormed (h : wellFormedPayload payload = true) :
    decodePayload (BitVec.ofNat 16 (payload.getD []).length) (payload.getD []) = .ok payload := by
  cases payload with
  | none => rfl
  | some pl =>
    obtain ⟨hne, hlen⟩ : pl ≠ [] ∧ pl.length < 65536 := by simpa [wellFormedPayload] using h
    simp [decodePayload, hne, Nat.mod_eq_of_lt hlen]

/-- What the decoder makes of a frame hands SEND the operands of that frame (R150, R154). -/
theorem sendOperands_decodeFields (cmd : Byte) (pl : List Byte) :
    sendOperands (decodeFields cmd pl) = some (cmd, pl) := by
  unfold decodeFields
  split_ifs with h
  · obtain ⟨rfl, rfl⟩ := h
    rfl
  · rfl

/-- The high byte of a 16-bit value read high byte first (R43). -/
theorem hi8_fromBe16 (h l : Byte) : hi8 (fromBe16 h l) = h := by
  have hl := l.isLt
  apply BitVec.eq_of_toNat_eq
  simp only [hi8, fromBe16, BitVec.toNat_ofNat]
  omega

/-- The low byte of a 16-bit value read high byte first (R43). -/
theorem lo8_fromBe16 (h l : Byte) : lo8 (fromBe16 h l) = l := by
  apply BitVec.eq_of_toNat_eq
  simp only [lo8, fromBe16, BitVec.toNat_ofNat]
  omega

/-- LEN by the length of the payload (R62, R94). -/
theorem frameLen_eq (cmd : Byte) (pl : List Byte) : frameLen cmd pl = pl.length + 9 := by
  simp [frameLen, frameBody, memRead, Config.fixedOverhead]

/-- Bytes that end with the trailer and one byte more are what stands before, the trailer, and that byte. -/
theorem eq_append_trailer {sum : Byte} (hlen : 5 ≤ rest.length)
    (htrailer : (rest.drop (rest.length - 5)).take 4 = Config.trailer) (hsum : rest.drop (rest.length - 1) = [sum]) :
    rest = rest.take (rest.length - 5) ++ (Config.trailer ++ [sum]) := by
  have hlast : (rest.drop (rest.length - 5)).drop 4 = [sum] := by
    rw [List.drop_drop, show rest.length - 5 + 4 = rest.length - 1 by omega, hsum]
  rw [← htrailer, ← hlast, List.take_append_drop, List.take_append_drop]

/-- The bytes before the checksum with a byte after them are the encoder's frame if that byte is the XOR of the bytes before
it (R66). -/
theorem eq_buildFrame_of_checksum {sum : Byte} (h : bytes = frameWithoutChecksum cmd pl ++ [sum])
    (hsum : xorFold (bytes.take (bytes.length - 1)) = sum) : bytes = buildFrame cmd pl := by
  rw [h, ← List.dropLast_eq_take, List.dropLast_concat] at hsum
  rw [h, buildFrame, hsum]

/-- A byte sequence that decodes is the encoder's frame of what it decodes to (R51, R61 to R68). -/
theorem eq_buildFrame_of_decodeFrame (h : decodeFrame bytes = .ok i) :
    ∃ cmd pl, bytes = buildFrame cmd pl ∧ pl.length ≤ Config.maxPayload ∧ i = decodeFields cmd pl := by
  unfold decodeFrame at h
  split at h
  · rename_i start lenHi lenLo cmd rest
    split_ifs at h with hshort hstart hlen hlong htrailer hsum
    rw [not_not] at hstart hlen htrailer hsum
    obtain rfl := hstart
    generalize hx : xorFold _ = sum at hsum
    have hrest := eq_append_trailer (Nat.le_of_not_lt hshort) htrailer hsum
    have hpl : (rest.take (rest.length - 5)).length + 5 = rest.length := by
      rw [List.length_take]
      omega
    generalize rest.take (rest.length - 5) = pl at hrest hpl h
    simp only [List.length_cons] at hlen hlong
    have hmax : Config.maxPayload + 9 = Config.maxFrame := rfl
    have hframeLen : fromBe16 lenHi lenLo = frameLen cmd pl := by
      rw [hlen, frameLen_eq]
      omega
    refine ⟨cmd, pl, eq_buildFrame_of_checksum ?_ hx, by omega, (Except.ok.inj h).symm⟩
    rw [frameWithoutChecksum, ← hframeLen, hi8_fromBe16, lo8_fromBe16, hrest]
    simp [frameBody, memRead]
  · cases h

/-- Settles O11, by the rows: a request gives back its payload, a frame its operands, and a call by name is read as the
operation of that name. -/
theorem decodeAfterEncode : Obligations.DecodeAfterEncode := by
  intro i hwf
  cases i with
  | encode cmd payload =>
    change (decodePayload _ _).map (Instr.encode cmd) = _
    rw [decodePayload_of_wellFormed hwf]
    rfl
  | send cmd payload =>
    change (decodePayload _ _).map (Instr.send cmd) = _
    rw [decodePayload_of_wellFormed hwf]
    rfl
  | frame cmd pl =>
    simp only [WellFormed, Bool.and_eq_true, decide_eq_true_eq, Bool.not_eq_true', Bool.and_eq_false_iff,
      beq_eq_false_iff_ne, List.isEmpty_eq_false_iff] at hwf
    obtain ⟨⟨hlen, -⟩, hnotClear⟩ := hwf
    have hfields : decodeFields cmd pl = .frame cmd pl := if_neg (not_and_or.mpr hnotClear)
    change decodeFrame (frameWords cmd pl) = _
    rw [← buildFrame_eq_frameWords, decodeFrame_buildFrame hlen, hfields]
  | clear => decide
  | reset => rfl
  | wake => rfl
  | update => rfl
  | setColor args => rfl
  | drawPixel a b => rfl
  | drawLine args => rfl
  | fillRect args => rfl
  | drawCircle args => rfl
  | fillCircle args => rfl
  | drawTriangle args => rfl
  | fillTriangle args => rfl
  | text args chars => rfl
  | drawBitmap args name => rfl
  | setMemoryMode args => rfl
  | setRotation args => rfl
  | setFont args => rfl
  | sleep => rfl

/-- Settles O12: the frame of accepted operands is taken apart into them. -/
theorem producedFrameDecodes : Obligations.ProducedFrameDecodes := by
  intro cmd pl bytes h
  obtain ⟨⟨-, hlen⟩, rfl⟩ := accepted_and_eq_of_encodeFrame h
  exact decodeFrame_buildFrame hlen

/-- Settles O13: the decoder's checks leave only the encoder's frame. -/
theorem decodedFrameIsExact : Obligations.DecodedFrameIsExact := by
  intro bytes i h
  obtain ⟨cmd, pl, rfl, hlen, rfl⟩ := eq_buildFrame_of_decodeFrame h
  exact ⟨cmd, pl, sendOperands_decodeFields cmd pl, buildFrame_eq_frameWords cmd pl, hlen⟩

end Sys2Proof.Safety
end

section
/-! ## A busy block -/

namespace Sys2Proof.Safety
open Sys2Proof Sys2Proof.Machine

/-- Settles O18: of the four things a step can do, those of a busy block leave its port alone. -/
theorem busyStepLeavesPort : Obligations.BusyStepLeavesPort := by
  intro s t hbusy h
  obtain ⟨-, -, rfl⟩ | ⟨-, -, rfl⟩ | ⟨hp, hf, -⟩ | ⟨hp, hf, -⟩ := step_next h
  · exact s.phaseStep_requests
  · exact s.flightStep_requests
  · exact absurd hbusy (by simp [hp, hf])
  · exact absurd hbusy (by simp [hp, hf])

/-- Settles O19: every meaning answers a next state only from an idle block, and those of the four operations begin with the
guard of R217. -/
theorem busyStartsNothing : Obligations.BusyStartsNothing := by
  intro s hbusy
  refine ⟨fun i t h => ?_, fun cmd payload => ⟨State.ifIdle_busy hbusy, State.ifIdle_busy hbusy⟩,
    State.ifIdle_busy hbusy, State.ifIdle_busy hbusy⟩
  obtain ⟨hp, hf, -⟩ := exec_next h
  exact absurd hbusy (by simp [hp, hf])

end Sys2Proof.Safety
end

section
/-! ## What every frame of the encoder satisfies -/

namespace Sys2Proof.Safety
open Sys2Proof Sys2Proof.Machine
variable {cmd : Byte} {pl bytes : List Byte}

/-- The last byte is the XOR of the bytes before it (R66). -/
theorem buildFrame_getLast? (cmd : Byte) (pl : List Byte) :
    (buildFrame cmd pl).getLast? = some (xorFold (frameWithoutChecksum cmd pl)) := by
  rw [buildFrame, List.getLast?_concat]

/-- The checksum cancels the XOR of the bytes before it (R77). -/
theorem xorFold_buildFrame (cmd : Byte) (pl : List Byte) : xorFold (buildFrame cmd pl) = 0 := by
  have hsingle : ∀ b : Byte, xorFold [b] = b := fun _ => BitVec.zero_xor
  rw [buildFrame, xorFold_append, hsingle]
  exact BitVec.xor_self

/-- The operands stand in the frame of every accepted pair at the same places, counted from its two ends (R78). -/
theorem operands_of_encodeFrame (h : encodeFrame cmd pl = .ok bytes) :
    bytes[3]? = some cmd ∧ (bytes.take (bytes.length - 5)).drop 4 = pl := by
  obtain ⟨-, rfl⟩ := accepted_and_eq_of_encodeFrame h
  have hcount : pl.length + 9 - 5 - 4 = pl.length := by omega
  refine ⟨buildFrame_getElem?_header cmd pl (by decide), ?_⟩
  rw [List.drop_take, buildFrame_length, hcount, buildFrame_drop_header, List.take_left]

/-- No choice of CMD_SET holds a value above 0x70 (R71). -/
theorem inCmdSet_eq_false (h : Config.maxCommand < cmd.toNat) : Config.inCmdSet cmd = false := by
  have hclear : cmd ≠ Config.cmdClear := by
    rintro rfl
    exact absurd h (by decide)
  simp [Config.inCmdSet, hclear, Nat.not_le.mpr h]

/-- CMD_CLEAR is a command for every choice of CMD_SET (R71). -/
theorem inCmdSet_cmdClear : Config.inCmdSet Config.cmdClear = true := rfl

/-- Settles O3: the last byte is the checksum, and it cancels the XOR of the bytes before it. -/
theorem frameXorIsZero : Obligations.FrameXorIsZero := by
  intro cmd pl bytes h
  obtain ⟨-, rfl⟩ := accepted_and_eq_of_encodeFrame h
  refine ⟨xorFold_buildFrame cmd pl, ?_⟩
  rw [buildFrame_getLast?, buildFrame, List.dropLast_concat]

/-- Settles O4: the bound on the payload bounds the length, which so fits the two bytes of LEN. -/
theorem lengthFieldIsLength : Obligations.LengthFieldIsLength := by
  intro cmd pl bytes h
  obtain ⟨⟨-, hn⟩, rfl⟩ := accepted_and_eq_of_encodeFrame h
  have hlen := buildFrame_length cmd pl
  refine ⟨hi8 (pl.length + 9), lo8 (pl.length + 9), buildFrame_getElem?_header cmd pl (by decide),
    buildFrame_getElem?_header cmd pl (by decide), ?_, by omega, by omega, by omega⟩
  rw [hlen]
  exact fromBe16_hi8_lo8 (by omega)

/-- Settles O5: whatever operands give a frame, they are read from it at the same places. -/
theorem encoderIsInjective : Obligations.EncoderIsInjective := by
  intro cmd pl bytes h
  obtain ⟨hcmd, hpl⟩ := operands_of_encodeFrame h
  refine ⟨hcmd, hpl, fun cmd' pl' h' => ?_⟩
  obtain ⟨hcmd', hpl'⟩ := operands_of_encodeFrame h'
  exact ⟨Option.some.inj (hcmd'.symm.trans hcmd), hpl'.symm.trans hpl⟩

/-- Settles O6: the trailer's bytes cancel out of the checksum; with no payload, 0xA5, LEN's 0x00 and 0x09 leave 0xAC. -/
theorem checksumFromFields : Obligations.ChecksumFromFields := by
  refine ⟨rfl, rfl, rfl, fun cmd pl bytes h => ?_⟩
  obtain ⟨-, rfl⟩ := accepted_and_eq_of_encodeFrame h
  have hsum : (buildFrame cmd pl).getLast? =
      some (0xA5 ^^^ hi8 (pl.length + 9) ^^^ lo8 (pl.length + 9) ^^^ cmd ^^^ xorFold pl) := by
    rw [buildFrame_getLast?, xorFold_frameWithoutChecksum]
  refine ⟨hsum, ?_⟩
  rintro rfl
  have hnone : xorFold [] = 0#8 := rfl
  have hfixed : (0xA5 ^^^ hi8 9 ^^^ lo8 9 : Byte) = 0xAC := rfl
  rw [hsum, List.length_nil, Nat.zero_add, hnone, BitVec.xor_zero, hfixed]

/-- Settles O7: a command above 0x70 is in no CMD_SET, and 0x2E is in every one. -/
theorem commandCheckComesFirst : Obligations.CommandCheckComesFirst := by
  refine ⟨fun cmd pl h => ?_, fun pl hn => ⟨_, encodeFrame_of_accepted ⟨inCmdSet_cmdClear, hn⟩⟩, fun pl hn => ?_⟩
  · obtain ⟨hc, -⟩ | ⟨hc, -⟩ | ⟨-, he⟩ := encodeFrame_cases cmd pl
    · simp [inCmdSet_eq_false h] at hc
    · simp [inCmdSet_eq_false h] at hc
    · exact he
  · obtain ⟨-, hle, -⟩ | ⟨-, -, he⟩ | ⟨hc, -⟩ := encodeFrame_cases 0x2E pl
    · exact absurd hn (Nat.not_lt.mpr hle)
    · exact he
    · exact absurd (inCmdSet_cmdClear.symm.trans hc) (by decide)

end Sys2Proof.Safety
end

section
/-! ## What a receiver accepts: the frames of a history, and those of the opcode table -/

namespace Sys2Proof.Safety
open Sys2Proof Sys2Proof.Machine
variable {cmd : Byte} {pl bytes : List Byte} {a : TxAnswer}

/-- A receiver's check passes only the frames the encoder produces (R60 to R68). -/
theorem exists_encodeFrame_of_isFrame (h : isFrame bytes = true) : ∃ cmd pl, encodeFrame cmd pl = .ok bytes := by
  unfold isFrame at h
  cases hd : decodeFrame bytes with
  | error e => simp [hd] at h
  | ok i =>
    obtain ⟨cmd, pl, rfl, hlen, rfl⟩ := eq_buildFrame_of_decodeFrame hd
    have hcmd : Config.inCmdSet cmd = true := by
      rw [hd, decodeFields] at h
      split_ifs at h with hclear
      · exact hclear.1 ▸ inCmdSet_cmdClear
      · exact h
    exact ⟨cmd, pl, encodeFrame_of_accepted ⟨hcmd, hlen⟩⟩

/-- An event that the observer accepts and that is a TxWrite carries a frame (R111). -/
theorem isFrame_of_follow {p q : Progress} (h : follow p (.txWrite bytes a) = some q) :
    isFrame bytes = true := by
  cases p with
  | between =>
    rw [follow] at h
    split_ifs at h with hframe
    exact hframe
  | driven1 l => cases h
  | held1 l => cases h
  | driven2 l => cases h
  | held2 l => cases h
  | driven3 l => cases h

/-- Every TxWrite of a history in order carries a frame (R111). -/
theorem isFrame_of_followAll {h : List Event} {p : Progress} (hp : followAll h = some p)
    (hmem : Event.txWrite bytes a ∈ h) : isFrame bytes = true := by
  induction h using List.reverseRecOn generalizing p with
  | nil => cases hmem
  | append_singleton h ev ih =>
    rw [followAll_concat, Option.bind_eq_some_iff] at hp
    obtain ⟨q, hq, hev⟩ := hp
    rcases List.mem_append.mp hmem with hold | hnew
    · exact ih hq hold
    · obtain rfl := List.mem_singleton.mp hnew
      exact isFrame_of_follow hev

/-- Settles O47: what the observer accepts as a frame is a frame of the encoder, and so has its length and its XOR. -/
theorem everyWriteIsAFrame : Obligations.EveryWriteIsAFrame := by
  intro h p bytes a hp hmem
  obtain ⟨cmd, pl, henc⟩ := exists_encodeFrame_of_isFrame (isFrame_of_followAll hp hmem)
  obtain ⟨hacc, hbytes⟩ := accepted_and_eq_of_encodeFrame henc
  obtain ⟨-, -, -, -, -, hmin, hmax, -⟩ := lengthFieldIsLength cmd pl bytes henc
  obtain ⟨hxor, -⟩ := frameXorIsZero cmd pl bytes henc
  exact ⟨⟨cmd, pl, hacc, hbytes.trans (buildFrame_eq_frameWords cmd pl)⟩, hmin, hmax, hxor⟩

/-- A table word whose bytes are a frame of the encoder decodes to what the frame carries (R51, log 13). -/
theorem decodeTableWord_of_frame {nbits w : Nat} (h : tableWords nbits w = .frame (buildFrame cmd pl))
    (hn : pl.length ≤ Config.maxPayload) : decodeTableWord nbits w = some (decodeFields cmd pl) := by
  rw [decodeTableWord, h, decode, decodeFrame_buildFrame hn]

/-- Settles O15: bits 1:0 of a one-byte word select the operation, and the two longer words are frames of the encoder. -/
theorem tableWordsDecode : Obligations.TableWordsDecode := by
  have hclear : tableWords 72 0xA500092ECC33C33C82 = .frame (buildFrame 0x2E []) := by decide
  have hframe : tableWords 80 0xA5000A2E81CC33C33C00 = .frame (buildFrame 0x2E [0x81]) := by decide
  exact ⟨rfl, rfl, rfl, rfl, decodeTableWord_of_frame hclear (by decide), decodeTableWord_of_frame hframe (by decide)⟩

end Sys2Proof.Safety
end

section
/-! ## What an instruction hands to SEND, and the operands it refuses -/

namespace Sys2Proof.Safety
open Sys2Proof Sys2Proof.Machine
variable {i : Instr} {cmd : Byte} {pl : List Byte} {args chars : List Nat} {s t : State}

/-- The SEND of a pair, run whole from a ready state, leaves what the rules say (R110 to R113). -/
theorem issueSend_ready (h : Ready s) : issueSend cmd pl s = .next (sendPost cmd pl s) := by
  obtain ⟨hp, hf, hr⟩ := h
  rw [issueSend, State.ifIdle_idle hp hf, hr, sendWhole_eq_sendPost]

/-- With operands in range, an instruction that expands to SEND leaves what the SEND of its pair leaves (R150). -/
theorem exec_ready (hfit : OperandsFit i) (hi : sendOperands i = some (cmd, pl)) (h : Ready s) :
    exec i s = .next (sendPost cmd pl s) :=
  (exec_eq_issueSend hfit hi).trans (issueSend_ready h)

theorem le_of_ifArgsFit_next {k : Host.Outcome State Fault Refusal} (h : ifArgsFit args k = .next t) :
    ∀ v ∈ args, v ≤ 65535 := fun v hv =>
  Nat.le_of_lt_succ (argsFit_iff.mp (ifArgsFit_next h).1 v hv)

theorem le_of_ifCharsFit_next {k : Host.Outcome State Fault Refusal} (h : ifCharsFit chars k = .next t) :
    ∀ u ∈ chars, u ≤ 255 := fun u hu =>
  Nat.le_of_lt_succ (charsFit_iff.mp (ifCharsFit_next h).1 u hu)

theorem le_of_sendText_next (h : sendText cmd args chars s = .next t) :
    (∀ v ∈ args, v ≤ 65535) ∧ ∀ u ∈ chars, u ≤ 255 :=
  ⟨le_of_ifArgsFit_next h, le_of_ifCharsFit_next (ifArgsFit_next h).2⟩

/-- A number with no encoding is refused (R69). -/
theorem ifArgsFit_refused {k : Host.Outcome State Fault Refusal} (h : ∃ v ∈ args, 65535 < v) :
    ifArgsFit args k = .refused .argumentTooWide := by
  obtain ⟨v, hv, hwide⟩ := h
  exact if_neg fun hfit => absurd (argsFit_iff.mp hfit v hv) (Nat.not_lt.mpr hwide)

/-- A character with no encoding is refused (R70). -/
theorem ifCharsFit_refused {k : Host.Outcome State Fault Refusal} (h : ∃ u ∈ chars, 255 < u) :
    ifCharsFit chars k = .refused .characterNotLatin1 := by
  obtain ⟨u, hu, hwide⟩ := h
  exact if_neg fun hfit => absurd (charsFit_iff.mp hfit u hu) (Nat.not_lt.mpr hwide)

/-- An operation with a text refuses its characters once its numbers are in range (R69, R70). -/
theorem sendText_refused (hargs : ∀ v ∈ args, v ≤ 65535) (hchars : ∃ u ∈ chars, 255 < u) :
    sendText cmd args chars s = .refused .characterNotLatin1 :=
  (ifArgsFit_of_le hargs).trans (ifCharsFit_refused hchars)

/-- An instruction that answers a next state has its operands in range (R69, R70). -/
theorem operandsFit_of_exec_next (h : exec i s = .next t) : OperandsFit i := by
  cases i with
  | encode _ _ => trivial
  | send _ _ => trivial
  | reset => trivial
  | wake => trivial
  | frame _ _ => trivial
  | clear => trivial
  | update => trivial
  | sleep => trivial
  | drawPixel a b =>
    have hfit := le_of_ifArgsFit_next h
    exact ⟨hfit a (by simp), hfit b (by simp)⟩
  | setColor _ => exact le_of_ifArgsFit_next h
  | drawLine _ => exact le_of_ifArgsFit_next h
  | fillRect _ => exact le_of_ifArgsFit_next h
  | drawCircle _ => exact le_of_ifArgsFit_next h
  | fillCircle _ => exact le_of_ifArgsFit_next h
  | drawTriangle _ => exact le_of_ifArgsFit_next h
  | fillTriangle _ => exact le_of_ifArgsFit_next h
  | setMemoryMode _ => exact le_of_ifArgsFit_next h
  | setRotation _ => exact le_of_ifArgsFit_next h
  | setFont _ => exact le_of_ifArgsFit_next h
  | text _ _ => exact le_of_sendText_next h
  | drawBitmap _ _ => exact le_of_sendText_next h

/-- Settles O21: FRAME hands its two fields to SEND (log 11). -/
theorem frameResult : Obligations.FrameResult :=
  fun cmd pl _ h => exec_ready (i := .frame cmd pl) trivial rfl h

/-- Settles O27: both operations hand SEND their numbers, then their characters (log 17). -/
theorem textBitmapResult : Obligations.TextBitmapResult :=
  fun args chars _ hargs hchars h =>
    ⟨exec_ready (i := .text args chars) ⟨hargs, hchars⟩ rfl h,
      exec_ready (i := .drawBitmap args chars) ⟨hargs, hchars⟩ rfl h⟩

/-- Settles O31: only operands in range lead to a next state, and the two range checks name what they refuse. -/
theorem typedOperandsRefused : Obligations.TypedOperandsRefused :=
  ⟨fun _ _ _ hnot h => hnot (operandsFit_of_exec_next h),
    fun _ _ hwide => ⟨ifArgsFit_refused hwide, ifArgsFit_refused hwide⟩,
    fun _ _ _ hargs hchars => ⟨sendText_refused hargs hchars, sendText_refused hargs hchars⟩⟩

end Sys2Proof.Safety
end

section
/-! ## The encoder's answer and the completion of ENCODE -/

namespace Sys2Proof.Safety
open Sys2Proof Sys2Proof.Machine
variable {cmd : Byte} {pl : List Byte} {payload : Option (List Byte)} {s : State}

/-- Settles O1: an answered frame is that of accepted operands, and accepted operands are answered. -/
theorem encoderAcceptsExactly : Obligations.EncoderAcceptsExactly := by
  intro cmd pl
  constructor
  · rintro ⟨bytes, h⟩
    exact (accepted_and_eq_of_encodeFrame h).1
  · intro hacc
    exact ⟨buildFrame cmd pl, encodeFrame_of_accepted hacc⟩

/-- The completion of an ENCODE is OK with the frame, or the first input error that applies (R90 to R92). -/
theorem encodeCompletion_cases (cmd : Byte) (pl : List Byte) :
    (Accepted cmd pl ∧ encodeCompletion cmd pl = ⟨.ok, some (buildFrame cmd pl)⟩) ∨
    (¬ Accepted cmd pl ∧ encodeCompletion cmd pl = ⟨.invalidCommand cmd, none⟩) ∨
    (¬ Accepted cmd pl ∧ encodeCompletion cmd pl = ⟨.payloadTooLarge pl.length, none⟩) := by
  obtain ⟨hc, hn, he⟩ | ⟨-, hn, he⟩ | ⟨hc, he⟩ := encodeFrame_cases cmd pl
  · exact .inl ⟨⟨hc, hn⟩, by rw [encodeCompletion, he]⟩
  · exact .inr (.inr ⟨fun ⟨_, hle⟩ => absurd hle (Nat.not_le.mpr hn), by rw [encodeCompletion, he]; rfl⟩)
  · exact .inr (.inl ⟨fun ⟨hin, _⟩ => absurd (hin.symm.trans hc) (by decide), by rw [encodeCompletion, he]; rfl⟩)

/-- An ENCODE completes with OK exactly for accepted operands (R91, R92). -/
theorem encodeCompletion_status_eq_ok_iff : (encodeCompletion cmd pl).status = .ok ↔ Accepted cmd pl := by
  obtain ⟨hacc, hc⟩ | ⟨hacc, hc⟩ | ⟨hacc, hc⟩ := encodeCompletion_cases cmd pl <;> simp [hacc, hc]

/-- What the rules say an ENCODE leaves is its completion at the output and nothing else changed (R98). -/
theorem encodePost_eq_completed (cmd : Byte) (pl : List Byte) (s : State) :
    encodePost cmd pl s =
      { s with done := some (encodeCompletion cmd pl), results := s.results ++ [encodeCompletion cmd pl] } :=
  (encodeWhole_eq_encodePost s cmd pl).symm

/-- An idle block that does not serve its requests through the ports runs an ENCODE in one step (R26, R90). -/
theorem exec_encode_idle (hp : s.ph = .idle) (hf : s.frame = []) (hr : s.realisation ≠ .ported) :
    exec (.encode cmd payload) s = .next (encodePost cmd (payload.getD []) s) := by
  change execEncode cmd payload s = _
  rw [execEncode, State.ifIdle_idle hp hf, ← encodeWhole_eq_encodePost]
  cases h : s.realisation with
  | transaction => rfl
  | stepwise => rfl
  | clocked => rfl
  | ported => exact absurd h hr

/-- Settles O9: one step of the whole ENCODE; an absent payload reads as no bytes before anything else is done. -/
theorem encodeResult : Obligations.EncodeResult :=
  ⟨fun _ _ _ hp hf hr => exec_encode_idle hp hf hr, fun _ _ => rfl⟩

/-- Settles O10: the completion is the encoder's answer, and at the ports the cycles end as the whole ENCODE does. -/
theorem encodeReadsNoState : Obligations.EncodeReadsNoState := by
  intro cmd payload
  refine ⟨encodeCompletion cmd (payload.getD []), ?_, fun s hp hf hr => ?_, fun s h hr => ?_⟩
  · obtain ⟨-, hc⟩ | ⟨-, hc⟩ | ⟨-, hc⟩ := encodeCompletion_cases cmd (payload.getD [])
    · exact .inl ⟨_, hc⟩
    · exact .inr (.inl hc)
    · exact .inr (.inr hc)
  · rw [exec_encode_idle hp hf hr, encodePost_eq_completed]
  · obtain ⟨t, hexec, hacc, hnot⟩ := portedEncodeAgrees cmd payload s h hr
    rw [← encodePost_eq_completed]
    exact ⟨t, hexec, fun herr => hnot (mt encodeCompletion_status_eq_ok_iff.mpr herr),
      fun hok => hacc (encodeCompletion_status_eq_ok_iff.mp hok)⟩

end Sys2Proof.Safety
end

section
/-! ## The result of SEND -/

namespace Sys2Proof.Safety
open Sys2Proof Sys2Proof.Machine
variable {cmd : Byte} {pl : List Byte} {s : State}

theorem writeStatus_eq_ok_iff {a : TxAnswer} : writeStatus pl a = .ok ↔ a = .written (pl.length + 9) := by
  simp [writeStatus]

/-- An input error is never OK (R91, R92). -/
theorem encodeError_status_ne_ok (e : EncodeError) : e.status ≠ .ok := by
  cases e with
  | invalidCommand _ => nofun
  | payloadTooLarge _ => nofun

/-- With accepted operands a SEND adds one TxWrite of its whole frame to the history (R111). -/
theorem sendPost_hist_of_accepted (h : Accepted cmd pl) :
    (sendPost cmd pl s).hist = s.hist ++ [.txWrite (frameWords cmd pl) s.nextAnswer] := by
  rw [sendPost_of_accepted h, buildFrame_eq_frameWords]
  rfl

/-- With accepted operands the transport's answer alone decides how a SEND completes (R112). -/
theorem sendPost_done_of_accepted (h : Accepted cmd pl) :
    (sendPost cmd pl s).done = some ⟨writeStatus pl s.nextAnswer, none⟩ := by
  obtain ⟨hc, hn⟩ := h
  simp [sendPost, hc, Nat.not_lt.mpr hn, ended]

/-- A SEND completes OK exactly when its operands are accepted and the count written is its frame's length (R91, R92,
R112). -/
theorem sendPost_done_eq_ok_iff :
    (sendPost cmd pl s).done = some ⟨.ok, none⟩ ↔ Accepted cmd pl ∧ s.nextAnswer = .written (pl.length + 9) := by
  by_cases hacc : Accepted cmd pl
  · simp [sendPost_done_of_accepted hacc, writeStatus_eq_ok_iff, hacc]
  · obtain ⟨e, he⟩ := encodeFrame_of_not_accepted hacc
    simp [sendPost_of_error he, encodeError_status_ne_ok, hacc]

/-- Settles O20: an absent payload is the empty one, and the whole SEND leaves what the rules say. -/
theorem sendResult : Obligations.SendResult :=
  fun cmd payload _ h => exec_ready (i := .send cmd payload) trivial rfl h

/-- Settles O22, by the completion that the rules give a SEND. -/
theorem sendOkIffWhole : Obligations.SendOkIffWhole :=
  fun cmd payload s h => ⟨_, sendResult cmd payload s h, sendPost_done_eq_ok_iff⟩

/-- Settles O33: accepted operands add the write of their own frame, which the answer ends; others add nothing and end with
the encoder's error. -/
theorem sendIsIndependent : Obligations.SendIsIndependent := by
  intro cmd payload s s' h h' hans
  have hexec := sendResult cmd payload s h
  have hexec' := sendResult cmd payload s' h'
  by_cases hacc : Accepted cmd (payload.getD [])
  · refine ⟨_, _, _, hexec, hexec', sendPost_hist_of_accepted hacc, ?_, ?_⟩
    · rw [sendPost_hist_of_accepted hacc, hans]
    · rw [sendPost_done_of_accepted hacc, sendPost_done_of_accepted hacc, hans]
  · obtain ⟨e, he⟩ := encodeFrame_of_not_accepted hacc
    refine ⟨_, _, [], hexec, hexec', ?_, ?_, ?_⟩ <;> simp [sendPost_of_error he]

end Sys2Proof.Safety
end

section
/-! ## The counter's bits, the clock periods of a hold, and the levels of a line -/

namespace Sys2Proof.Safety
open Sys2Proof Sys2Proof.Machine
variable {f t n b : Nat} {s : State}

/-- N(T) periods last at least T (R133). -/
theorem le_ticks_mul (f t : Nat) : t * f ≤ ticks f t * 1000000 := by
  rw [ticks]
  omega

/-- Every number of periods that lasts T is at least N(T) (R133). -/
theorem ticks_le_of_le_mul (h : t * f ≤ n * 1000000) : ticks f t ≤ n := by
  rw [ticks]
  omega

/-- The longer of two holds takes no fewer periods (R133). -/
theorem periods_mono {c d : Nat} (h : c ≤ d) : periods c ≤ periods d :=
  ticks_le_of_le_mul ((Nat.mul_le_mul_right _ h).trans (le_ticks_mul Config.fClkHz d))

/-- The counter's bits hold the value it starts at (R133). -/
theorem lt_two_pow_counterBits (n : Nat) : n < 2 ^ counterBits n := Nat.le_pow_clog Nat.one_lt_two (n + 1)

/-- Fewer bits do not hold it (R133). -/
theorem counterBits_le_of_lt_two_pow (h : n < 2 ^ b) : counterBits n ≤ b := Nat.clog_le_of_le_pow h

/-- Settles O43: N(T) rounds up, and so do the counter's bits. -/
theorem tickCountIsLeast : Obligations.TickCountIsLeast :=
  fun f t => ⟨le_ticks_mul f t, fun _ => ticks_le_of_le_mul, lt_two_pow_counterBits _,
    fun _ => counterBits_le_of_lt_two_pow⟩

/-- Where no hold of the active line is longer than `n`, the hold counter starts at no more than N(n) (R133). -/
theorem counterBound_le_periods (h1 : s.holds.t1 s.ln ≤ n) (h2 : s.holds.t2 s.ln ≤ n) (h3 : s.holds.t3 s.ln ≤ n) :
    counterBound s ≤ periods n := by
  unfold counterBound periodsOfHold
  split_ifs
  · split
    · exact periods_mono h1
    · exact periods_mono h2
    · exact periods_mono h3
    all_goals exact Nat.zero_le _
  · exact Nat.zero_le _

/-- Settles O55: the counter stays within N(T) of its hold, which is at most N(T_RST_LOW2). -/
theorem counterFits : Obligations.CounterFits := by
  intro s h hr1 hr2 hw1 hw2 hw3
  obtain ⟨hle, -⟩ := h.counter
  have hbound : counterBound s ≤ periods s.holds.rstLow2 := by
    cases hln : s.ln with
    | reset => exact counterBound_le_periods (hln ▸ hr1) (hln ▸ hr2) (by rw [hln]; exact Nat.le_refl _)
    | wake => exact counterBound_le_periods (hln ▸ hw1) (hln ▸ hw2) (hln ▸ hw3)
  exact (hle.trans hbound).trans_lt (lt_two_pow_counterBits _)

/-- The levels of `k` whole pulse trains (R127). -/
def trainLevels (k : Nat) : List Level := (List.replicate k [Level.low, Level.high, Level.low]).flatten

theorem trainLevels_append (j k : Nat) : trainLevels j ++ trainLevels k = trainLevels (j + k) := by
  rw [trainLevels, trainLevels, trainLevels, List.replicate_add, List.flatten_append]

/-- The levels that a pulse train in progress has driven onto a line so far (R127). -/
def levelsSoFar (l : Line) : Progress → List Level
  | .between => []
  | .driven1 m => if m = l then [.low] else []
  | .held1 m => if m = l then [.low] else []
  | .driven2 m => if m = l then [.low, .high] else []
  | .held2 m => if m = l then [.low, .high] else []
  | .driven3 m => if m = l then [.low, .high, .low] else []

/-- What the observer accepts: a frame between two operations, the next level of a pulse train, or its next hold (R111,
R127, R128). -/
theorem follow_cases {p q : Progress} {ev : Event} (h : follow p ev = some q) :
    (p = .between ∧ q = .between ∧ ∃ bytes a, ev = .txWrite bytes a) ∨
    (∃ m, (p = .between ∧ q = .driven1 m ∧ ev = .gpioSet m .low) ∨
      (p = .held1 m ∧ q = .driven2 m ∧ ev = .gpioSet m .high) ∨
      (p = .held2 m ∧ q = .driven3 m ∧ ev = .gpioSet m .low)) ∨
    (∃ m d e, ev = .sleep d e ∧
      ((p = .driven1 m ∧ q = .held1 m) ∨ (p = .driven2 m ∧ q = .held2 m) ∨ (p = .driven3 m ∧ q = .between))) := by
  unfold follow at h
  split at h
  · split_ifs at h
    cases h
    exact .inl ⟨rfl, rfl, _, _, rfl⟩
  · cases h
    exact .inr (.inl ⟨_, .inl ⟨rfl, rfl, rfl⟩⟩)
  · split_ifs at h
    cases h
    exact .inr (.inr ⟨_, _, _, rfl, .inl ⟨rfl, rfl⟩⟩)
  · split_ifs at h with hm
    cases h
    exact .inr (.inl ⟨_, .inr (.inl ⟨rfl, rfl, by rw [hm]⟩)⟩)
  · split_ifs at h
    cases h
    exact .inr (.inr ⟨_, _, _, rfl, .inr (.inl ⟨rfl, rfl⟩)⟩)
  · split_ifs at h with hm
    cases h
    exact .inr (.inl ⟨_, .inr (.inr ⟨rfl, rfl, by rw [hm]⟩)⟩)
  · split_ifs at h
    cases h
    exact .inr (.inr ⟨_, _, _, rfl, .inr (.inr ⟨rfl, rfl⟩)⟩)
  · cases h

theorem levelsOn_gpioSet (l m : Line) (v : Level) : levelsOn l [.gpioSet m v] = if m = l then [v] else [] := by
  split_ifs with h
  · rw [h, levelsOn_gpioSet_self]
  · exact levelsOn_gpioSet_other v (Ne.symm h)

/-- An event in order drives the next level of the train in progress, or none; the end of the third hold makes the train a
whole one (R127). -/
theorem levelsSoFar_follow {p q : Progress} {ev : Event} (l : Line) (h : follow p ev = some q) :
    ∃ j, levelsSoFar l p ++ levelsOn l [ev] = trainLevels j ++ levelsSoFar l q := by
  obtain ⟨rfl, rfl, bytes, a, rfl⟩ | ⟨m, ⟨rfl, rfl, rfl⟩ | ⟨rfl, rfl, rfl⟩ | ⟨rfl, rfl, rfl⟩⟩ |
    ⟨m, d, e, rfl, ⟨rfl, rfl⟩ | ⟨rfl, rfl⟩ | ⟨rfl, rfl⟩⟩ := follow_cases h
  · exact ⟨0, rfl⟩
  · exact ⟨0, levelsOn_gpioSet l m .low⟩
  · exact ⟨0, by by_cases hm : m = l <;> simp [levelsSoFar, trainLevels, levelsOn_gpioSet, hm]⟩
  · exact ⟨0, by by_cases hm : m = l <;> simp [levelsSoFar, trainLevels, levelsOn_gpioSet, hm]⟩
  · exact ⟨0, List.append_nil _⟩
  · exact ⟨0, List.append_nil _⟩
  · exact ⟨if m = l then 1 else 0, by by_cases hm : m = l <;> simp [levelsSoFar, trainLevels, hm]⟩

/-- In a history in order a line has seen whole trains and then the levels of the train in progress (R127). -/
theorem exists_levelsOn_eq {h : List Event} {p : Progress} (l : Line) (hp : followAll h = some p) :
    ∃ k, levelsOn l h = trainLevels k ++ levelsSoFar l p := by
  induction h using List.reverseRecOn generalizing p with
  | nil => cases hp; exact ⟨0, rfl⟩
  | append_singleton h ev ih =>
    rw [followAll_concat, Option.bind_eq_some_iff] at hp
    obtain ⟨q, hq, hev⟩ := hp
    obtain ⟨k, hk⟩ := ih hq
    obtain ⟨j, hj⟩ := levelsSoFar_follow l hev
    refine ⟨k + j, ?_⟩
    rw [levelsOn_append, hk, List.append_assoc, hj, ← List.append_assoc, trainLevels_append]

/-- Settles O48: between two operations no train is in progress. -/
theorem levelsAreWholeTrains : Obligations.LevelsAreWholeTrains := by
  intro h l hp
  obtain ⟨k, hk⟩ := exists_levelsOn_eq l hp
  exact ⟨k, hk.trans (List.append_nil _)⟩

end Sys2Proof.Safety
end

section
/-! ## A pulse train row by row, whole and cut into its steps -/

namespace Sys2Proof.Machine
open Sys2Proof

theorem State.gpioSet_toPhase (s : State) (l : Line) (v : Level) (p : Phase) (n : Nat) :
    (s.toPhase p n).gpioSet l v = (s.gpioSet l v).toPhase p n := by cases l <;> rfl

theorem State.gpioAtEdge_toPhase (s : State) (l : Line) (v : Level) (p : Phase) (n : Nat) :
    (s.toPhase p n).gpioAtEdge l v = (s.gpioAtEdge l v).toPhase p n := by cases l <;> rfl

@[simp] theorem State.endTrain_ph (s : State) : s.endTrain.ph = s.ph := by
  unfold State.endTrain; split <;> simp
@[simp] theorem State.endTrain_tick (s : State) : s.endTrain.tick = s.tick := by
  unfold State.endTrain; split <;> simp

/-- A completion stands at the output exactly if the train is over (R27, R131). -/
@[simp] theorem State.endTrain_toPhase_done (s : State) (p : Phase) (n : Nat) :
    (s.toPhase p n).endTrain.done = if p = .idle then some ⟨.ok, none⟩ else none := by
  by_cases hp : p = .idle
  · rw [if_pos hp, State.endTrain_idle (by exact hp)]
    rfl
  · rw [if_neg hp, State.endTrain_busy (by exact hp)]
    rfl

@[simp] theorem State.pulseWhole_requests (s : State) (l : Line) : (s.pulseWhole l).requests = s.requests := by
  simp [State.pulseWhole, State.pulseCalls]
@[simp] theorem State.pulseWhole_txAnswers (s : State) (l : Line) : (s.pulseWhole l).txAnswers = s.txAnswers := by
  simp [State.pulseWhole, State.pulseCalls]
@[simp] theorem State.pulseWhole_delays (s : State) (l : Line) : (s.pulseWhole l).delays = s.delays.drop 6 := by
  simp only [← List.drop_one, List.drop_drop, State.pulseWhole, State.pulseCalls, State.complete_delays,
    State.sleep_delays, State.gpioSet_delays, State.latch_delays]
@[simp] theorem State.pulseWhole_draws (s : State) (l : Line) : (s.pulseWhole l).draws = s.draws + 6 := by
  simp [State.pulseWhole, State.pulseCalls]
@[simp] theorem State.pulseWhole_waits (s : State) (l : Line) : (s.pulseWhole l).waits = s.waits := by
  simp [State.pulseWhole, State.pulseCalls]
@[simp] theorem State.pulseWhole_transfers (s : State) (l : Line) : (s.pulseWhole l).transfers = s.transfers := by
  simp [State.pulseWhole, State.pulseCalls]

/-- Going on to phase 0 with the hold counter at 0 shows only in the completion output, which a completion fills. -/
theorem State.complete_toPhase {s : State} (hp : s.ph = .idle) (ht : s.tick = 0) (status : Status)
    (frame : Option (List Byte)) : (s.toPhase .idle 0).complete status frame = s.complete status frame := by
  cases s
  cases hp
  cases ht
  rfl

/-- An idle block with legal holds that runs operations whole makes the pulse train at once (R125, R126). -/
theorem issuePulse_whole {s : State} {l : Line} (h : Safety.Ready s) (hl : s.holds.legal l = true) :
    issuePulse l s = .next (s.pulseWhole l) := by
  obtain ⟨hp, hf, hr⟩ := h
  rw [issuePulse, State.ifIdle_idle hp hf, State.ifLegal, if_pos hl, hr]

/-- Cut into steps, it latches the line and enters phase 1 (row 0 of R132). -/
theorem issuePulse_start {s : State} {l : Line} (h : Safety.Idle s) (hr : s.realisation ≠ .transaction)
    (hl : s.holds.legal l = true) : issuePulse l s = .next (s.pulseStart l) := by
  obtain ⟨hp, hf, -, -⟩ := h
  rw [issuePulse, State.ifIdle_idle hp hf, State.ifLegal, if_pos hl]
  cases hc : s.realisation with
  | transaction => exact absurd hc hr
  | stepwise => rfl
  | clocked => rfl
  | ported => rfl

end Sys2Proof.Machine

namespace Sys2Proof.Safety
open Sys2Proof Sys2Proof.Machine
variable {s : State} {p q r : Phase} {l : Line} {v : Level} {d n : Nat}

/-- The drive and the hold of one row on the active line: two collaborator calls, or, where the block counts its holds, the
level at a clock edge and the time of N(T) periods (R132, R133). -/
def rowCalls (v : Level) (d : Nat) (s : State) : State :=
  if s.realisation.counted then ((s.gpioAtEdge s.ln v).elapse (heldFor d)).note (.sleep d (heldFor d))
  else (s.gpioSet s.ln v).sleep d

/-- The steps that the drive and the hold of one row take (R132, R133). -/
def rowSteps (d : Nat) (s : State) : Nat := if s.realisation.counted then periods d + 1 else 2

theorem rowCalls_counted (hc : s.realisation.counted = true) :
    rowCalls v d s = ((s.gpioAtEdge s.ln v).elapse (heldFor d)).note (.sleep d (heldFor d)) := if_pos hc

theorem rowCalls_slept (hc : s.realisation.counted = false) : rowCalls v d s = (s.gpioSet s.ln v).sleep d :=
  if_neg (by simp [hc])

@[simp] theorem rowCalls_ph : (rowCalls v d s).ph = s.ph := by unfold rowCalls; split <;> simp
@[simp] theorem rowCalls_resetLine :
    (rowCalls v d s).resetLine = if s.ln = .reset then some v else s.resetLine := by unfold rowCalls; split <;> simp
@[simp] theorem rowCalls_wakeLine :
    (rowCalls v d s).wakeLine = if s.ln = .wake then some v else s.wakeLine := by unfold rowCalls; split <;> simp
@[simp] theorem rowCalls_ln : (rowCalls v d s).ln = s.ln := by unfold rowCalls; split <;> simp
@[simp] theorem rowCalls_tick : (rowCalls v d s).tick = s.tick := by unfold rowCalls; split <;> simp
@[simp] theorem rowCalls_holds : (rowCalls v d s).holds = s.holds := by unfold rowCalls; split <;> simp
@[simp] theorem rowCalls_realisation : (rowCalls v d s).realisation = s.realisation := by
  unfold rowCalls; split <;> simp

@[simp] theorem rowSteps_rowCalls (c : Nat) : rowSteps c (rowCalls v d s) = rowSteps c s := by
  rw [rowSteps, rowCalls_realisation, rowSteps]

/-- Run from the phase of a row's drive, the row makes its calls and goes on to the next row, or ends the train (R132,
R133). -/
theorem runSteps_row (hrow : (p, q, r, v, d) ∈ holdRows s) (hl : s.holds.legal s.ln = true) :
    runSteps (rowSteps d s) (s.toPhase p n) = .next ((rowCalls v d s).toPhase r 0).endTrain := by
  have hdrive := step_drive (s := s.toPhase p n) hrow hl rfl
  set t := (s.toPhase p n).driveStep v d q with ht
  have hrow' : (p, q, r, v, d) ∈ holdRows t := by
    rwa [holdRows_congr (t := t) (s := s) (by simp [ht]) (by simp [ht])]
  cases hc : s.realisation.counted with
  | true =>
    rw [rowSteps, if_pos hc, runSteps_succ hdrive, runSteps_hold hrow' (holdBegins_driveStep v d q hc hl),
      rowCalls_counted hc, ht, State.driveStep_counted (s := s.toPhase p n) hc, State.gpioAtEdge_toPhase]
    rfl
  | false =>
    have hhold := step_hold_slept (s := t) (by simpa [ht] using hl) hrow' (by simp [ht]) (by simpa [ht] using hc)
    rw [rowSteps, if_neg (by simp [hc]), runSteps_succ hdrive, runSteps_succ hhold, rowCalls_slept hc, ht,
      State.driveStep_slept (s := s.toPhase p n) hc, State.gpioSet_toPhase]
    rfl

/-- The three rows of a pulse train on the active line (R132). -/
def trainCalls (s : State) : State :=
  rowCalls .low (s.holds.t3 s.ln) (rowCalls .high (s.holds.t2 s.ln) (rowCalls .low (s.holds.t1 s.ln) s))

@[simp] theorem trainCalls_resetLine :
    (trainCalls s).resetLine = if s.ln = .reset then some .low else s.resetLine := by
  cases h : s.ln <;> simp [trainCalls, h]
@[simp] theorem trainCalls_wakeLine :
    (trainCalls s).wakeLine = if s.ln = .wake then some .low else s.wakeLine := by
  cases h : s.ln <;> simp [trainCalls, h]

/-- The steps of a pulse train on a line, after it has been accepted (R132, R133). -/
def trainSteps (l : Line) (s : State) : Nat :=
  rowSteps (s.holds.t1 l) s + (rowSteps (s.holds.t2 l) s + rowSteps (s.holds.t3 l) s)

/-- Once accepted, a pulse train makes its three rows and completes with OK (R131, R132). -/
theorem runSteps_pulseStart (h : Idle s) (hl : s.holds.legal l = true) :
    runSteps (trainSteps l s) (s.pulseStart l) = .next ((trainCalls (s.latch l)).complete .ok none) := by
  obtain ⟨hp, -, -, ht⟩ := h
  have hrun1 := runSteps_row (s := s.latch l) (n := s.tick) (.head _) hl
  have hrun2 := runSteps_row (s := rowCalls .low (s.holds.t1 l) (s.latch l)) (n := 0) (.tail _ (.head _)) (by simpa)
  have hrun3 := runSteps_row (s := rowCalls .high (s.holds.t2 l) (rowCalls .low (s.holds.t1 l) (s.latch l))) (n := 0)
    (.tail _ (.tail _ (.head _))) (by simpa)
  simp only [rowSteps_rowCalls, rowCalls_holds, rowCalls_ln] at hrun2 hrun3
  rw [trainSteps]
  refine (runSteps_add hrun1).trans ((runSteps_add hrun2).trans (hrun3.trans ?_))
  exact congrArg _ (State.complete_toPhase (by simp [hp]) (by simp [ht]) _ _)

end Sys2Proof.Safety
end

section
/-! ## RESET and WAKE, whole and cut into their steps -/

namespace Sys2Proof.Safety
open Sys2Proof Sys2Proof.Machine
variable {s : State} {l : Line}

theorem nextDelay_eq_delayAt (s : State) : s.nextDelay = delayAt s 0 := by
  rw [State.nextDelay, List.head?_eq_getElem?]
  rfl

/-- A collaborator call uses up one delay (log 4). -/
theorem delayAt_record (s : State) (ev : Event) (e k : Nat) : delayAt (s.record ev e) k = delayAt s (k + 1) := by
  simp [delayAt, Nat.add_assoc, Nat.add_comm 1 k]

theorem delayAt_sleep (s : State) (d k : Nat) : delayAt (s.sleep d) k = delayAt s (k + 1) := delayAt_record ..

theorem delayAt_gpioSet (s : State) (l : Line) (v : Level) (k : Nat) :
    delayAt (s.gpioSet l v) k = delayAt s (k + 1) := by
  rw [State.gpioSet, delayAt_record]
  simp [delayAt]

theorem delayAt_latch (s : State) (l : Line) (k : Nat) : delayAt (s.latch l) k = delayAt s k := rfl

/-- The six calls of a whole pulse train in order (R125, R126, R127). -/
theorem pulseWhole_hist (s : State) (l : Line) :
    (s.pulseWhole l).hist = s.hist ++ pulseEvents l (s.holds.t1 l) (s.holds.t2 l) (s.holds.t3 l) s := by
  simp [State.pulseWhole, State.pulseCalls, pulseEvents, nextDelay_eq_delayAt, delayAt_sleep, delayAt_gpioSet,
    delayAt_latch]

/-- The time they take (R33). -/
theorem pulseWhole_now (s : State) (l : Line) :
    (s.pulseWhole l).now = s.now + pulseTime (s.holds.t1 l) (s.holds.t2 l) (s.holds.t3 l) s := by
  simp only [State.pulseWhole, State.pulseCalls, State.complete_now, State.sleep_now, State.gpioSet_now, State.latch_now,
    State.latch_holds, nextDelay_eq_delayAt, delayAt_sleep, delayAt_gpioSet, delayAt_latch, pulseTime, Nat.reduceAdd]
  omega

/-- The whole pulse train leaves its six events, their time and one OK completion, whatever the level before (R125 to R131,
R136). -/
theorem pulseRest_pulseWhole (s : State) (l : Line) :
    PulseRest l (s.holds.t1 l) (s.holds.t2 l) (s.holds.t3 l) s (s.pulseWhole l) := by
  simp [PulseRest, pulseWhole_hist, pulseWhole_now]

/-- Settles O37: run whole, each of the two is the pulse train on its line. -/
theorem pulseResult : Obligations.PulseResult := by
  intro s h
  refine ⟨fun h1 h2 h3 => ?_, fun h1 h2 h3 => ?_⟩
  · have hl : s.holds.legal .reset = true := Holds.legal_iff.mpr ⟨h1, h2, h3⟩
    exact ⟨_, issuePulse_whole h hl, by simp, by simp, pulseRest_pulseWhole s .reset⟩
  · have hl : s.holds.legal .wake = true := Holds.legal_iff.mpr ⟨h1, h2, h3⟩
    exact ⟨_, issuePulse_whole h hl, by simp, by simp, pulseRest_pulseWhole s .wake⟩

theorem trainCalls_slept (hc : s.realisation.counted = false) :
    (trainCalls (s.latch l)).complete .ok none = s.pulseWhole l := by
  simp [trainCalls, rowCalls_slept, hc, State.pulseWhole, State.pulseCalls]

theorem trainSteps_slept (hc : s.realisation.counted = false) : trainSteps l s = 6 := by
  simp [trainSteps, rowSteps, hc]

/-- Accepted step by step, a pulse train ends after six steps in the very state of the whole one (R132). -/
theorem runSteps_stepwise (h : Idle s) (hr : s.realisation = .stepwise) (hl : s.holds.legal l = true) :
    runSteps 6 (s.pulseStart l) = .next (s.pulseWhole l) := by
  have hc : s.realisation.counted = false := by rw [hr]; rfl
  rw [← trainSteps_slept hc, runSteps_pulseStart h hl, trainCalls_slept hc]

/-- Settles O41: the six steps end in the state of the whole pulse train. -/
theorem stepwisePulseAgrees : Obligations.StepwisePulseAgrees := by
  intro s h hr
  have hcut : s.realisation ≠ .transaction := by simp [hr]
  refine ⟨fun hl => ⟨_, _, issuePulse_start h hcut hl, rfl, rfl, rfl, runSteps_stepwise h hr hl, ?_⟩,
    fun hl => ⟨_, _, issuePulse_start h hcut hl, rfl, rfl, rfl, runSteps_stepwise h hr hl, ?_⟩⟩
  · exact ⟨by simp, by simp, pulseRest_pulseWhole s .reset⟩
  · exact ⟨by simp, by simp, pulseRest_pulseWhole s .wake⟩

/-- The counted pulse train leaves the six events, its holds elapsed for their whole periods, and one OK completion (R125,
R133, log 22). -/
theorem clockedRest_trainCalls (hc : s.realisation.counted = true) :
    ClockedRest l s ((trainCalls (s.latch l)).complete .ok none) := by
  simp [ClockedRest, trainCalls, rowCalls_counted, hc, Nat.add_assoc]

theorem trainSteps_counted (hc : s.realisation.counted = true) : trainSteps l s = clockedSteps l s.holds := by
  simp only [trainSteps, rowSteps, if_pos hc, clockedSteps]
  omega

theorem runSteps_clocked (h : Idle s) (hc : s.realisation.counted = true) (hl : s.holds.legal l = true) :
    runSteps (clockedSteps l s.holds) (s.pulseStart l) = .next ((trainCalls (s.latch l)).complete .ok none) := by
  rw [← trainSteps_counted hc, runSteps_pulseStart h hl]

/-- Settles O54: three drives and the clock periods of the three holds. -/
theorem clockedPulseAgrees : Obligations.ClockedPulseAgrees := by
  intro s h hc
  have hcut : s.realisation ≠ .transaction := by
    intro hr
    simp [hr, Realisation.counted] at hc
  refine ⟨fun hl => ⟨_, _, issuePulse_start h hcut hl, rfl, rfl, rfl, runSteps_clocked h hc hl, ?_⟩,
    fun hl => ⟨_, _, issuePulse_start h hcut hl, rfl, rfl, rfl, runSteps_clocked h hc hl, ?_⟩⟩
  · exact ⟨by simp, by simp, clockedRest_trainCalls hc⟩
  · exact ⟨by simp, by simp, clockedRest_trainCalls hc⟩

/-- Settles O53: the drive loads N(T), each step takes one from it, and the last ends the hold, which is the train's end only
if it is the third. -/
theorem holdCountsPeriods : Obligations.HoldCountsPeriods := by
  refine ⟨fun s p q r v d hc hl hrow hp => ⟨le_ticks_mul _ d, fun _ => ticks_le_of_le_mul, ?_⟩,
    fun h => ⟨lt_two_pow_counterBits _, fun _ => counterBits_le_of_lt_two_pow⟩⟩
  have hbegins := holdBegins_driveStep v d q hc hl
  have hline := s.line_driveStep_self v d q
  have hln := s.driveStep_ln v d q
  have hrow' : (p, q, r, v, d) ∈ holdRows (s.driveStep v d q) := by
    rwa [holdRows_congr (s.driveStep_holds v d q) hln]
  have hover : (((s.driveStep v d q).elapse (heldFor d)).note (.sleep d (heldFor d))).line s.ln = some v := hline
  refine ⟨_, step_drive hrow hl hp, by simp, hln, hbegins.tick, hline, by simp, hbegins.done, fun k hk => ?_, ?_⟩
  · exact ⟨_, runSteps_counting hrow' hbegins hk, hbegins.ph, rfl, hline, rfl, hbegins.done⟩
  · exact ⟨_, heldFor d, runSteps_hold hrow' hbegins, by simp, by simp, fun _ => by simp, by simp [hover], by simp,
      le_heldFor d, by simp⟩

end Sys2Proof.Safety
end

section
/-! ## The typed operations as SENDs, and why their commands are always in CMD_SET -/

namespace Sys2Proof.Safety
open Sys2Proof Sys2Proof.Machine
variable {i : Instr} {cmd : Byte} {pl : List Byte} {s t : State}

/-! ### The typed commands in CMD_SET -/

/-- Every free command value lies in the observed range (R71, R152). -/
theorem commandByte_toNat_le (c : Fin 0x71) : (Config.commandByte c).toNat ≤ Config.maxCommand := by
  have hlt : c.val < 0x71 := c.isLt
  rw [Config.commandByte, BitVec.toNat_ofNat, Config.maxCommand]
  omega

/-- Each open CMD_<OP> is one of those values. -/
theorem exists_commandByte_of_mem_typedCommands (h : cmd ∈ Config.typedCommands) : ∃ c, cmd = Config.commandByte c := by
  simp only [Config.typedCommands, List.mem_cons, List.not_mem_nil, or_false] at h
  rcases h with h | h | h | h | h | h | h | h | h | h | h | h | h | h | h <;> exact ⟨_, h⟩

/-- Each open CMD_<OP> is a member of CMD_SET, for every choice of the free values (R71, R152). -/
theorem inCmdSet_of_mem_typedCommands (h : cmd ∈ Config.typedCommands) : Config.inCmdSet cmd = true := by
  have hrange : cmd.toNat ≤ Config.maxCommand := by
    obtain ⟨c, rfl⟩ := exists_commandByte_of_mem_typedCommands h
    exact commandByte_toNat_le c
  simp [Config.inCmdSet, hrange, h]

/-- A typed operation hands SEND the command 0x2E or one of the open CMD_<OP> (R152, R154 to R169). -/
theorem command_of_typed (ht : isTyped i = true) (hi : sendOperands i = some (cmd, pl)) :
    cmd = Config.cmdClear ∨ cmd ∈ Config.typedCommands := by
  cases i with
  | encode _ _ | send _ _ | reset | wake | frame _ _ => cases ht
  | clear =>
    cases hi
    exact .inl rfl
  | update | setColor _ | drawPixel _ _ | drawLine _ | fillRect _ | drawCircle _ | fillCircle _ | drawTriangle _
  | fillTriangle _ | text _ _ | drawBitmap _ _ | setMemoryMode _ | setRotation _ | setFont _ | sleep =>
    cases hi
    exact .inr (by simp [Config.typedCommands])

theorem inCmdSet_of_typed (ht : isTyped i = true) (hi : sendOperands i = some (cmd, pl)) : Config.inCmdSet cmd = true := by
  obtain rfl | hmem := command_of_typed ht hi
  · exact inCmdSet_cmdClear
  · exact inCmdSet_of_mem_typedCommands hmem

/-! ### How a SEND completes -/

/-- What stands at the completion output once a SEND is accepted, in every realisation: nothing yet, the status of the
written frame, or the encoder's error (R112, R113). -/
theorem issueSend_done (h : issueSend cmd pl s = .next t) :
    t.done = none ∨ (∃ bytes, t.done = some ⟨sendStatus bytes s.nextAnswer, none⟩) ∨
    ∃ e, encodeFrame cmd pl = .error e ∧ t.done = some ⟨e.status, none⟩ := by
  obtain ⟨-, -, ⟨-, rfl⟩ | ⟨-, rfl⟩ | ⟨-, rfl⟩⟩ := issueSend_next h
  · obtain ⟨-, ht⟩ | ⟨e, he, ht⟩ := s.sendWhole_cases cmd pl
    · exact .inr (.inl ⟨_, by rw [ht]; rfl⟩)
    · exact .inr (.inr ⟨e, he, by rw [ht]; rfl⟩)
  · obtain ⟨-, ht⟩ | ⟨e, he, ht⟩ := s.sendStart_cases cmd pl
    · exact .inl (by rw [ht])
    · exact .inr (.inr ⟨e, he, by rw [ht]; rfl⟩)
  · obtain ⟨-, ht⟩ | ⟨e, he, ht⟩ := s.portStart_cases .transport cmd pl
    · exact .inl (by rw [ht, State.sealWhole_done])
    · exact .inr (.inr ⟨e, he, by rw [ht]; rfl⟩)

/-- The transport's answer never makes an InvalidCommand (R112). -/
theorem sendStatus_ne_invalidCommand (bytes : List Byte) (a : TxAnswer) (c : Byte) :
    sendStatus bytes a ≠ .invalidCommand c := by
  rw [sendStatus]
  split <;> nofun

/-- Of a command in CMD_SET the encoder can only refuse the payload's length (R91, R92). -/
theorem eq_payloadTooLarge_of_inCmdSet {e : EncodeError} (hc : Config.inCmdSet cmd = true)
    (he : encodeFrame cmd pl = .error e) : e = .payloadTooLarge pl.length := by
  obtain ⟨-, -, he'⟩ | ⟨-, -, he'⟩ | ⟨hno, -⟩ := encodeFrame_cases cmd pl
  · cases he.symm.trans he'
  · cases he.symm.trans he'
    rfl
  · simp [hc] at hno

/-- The SEND of a command in CMD_SET never ends in InvalidCommand (R91, R152). -/
theorem issueSend_done_ne_invalidCommand (hc : Config.inCmdSet cmd = true) (h : issueSend cmd pl s = .next t) (c : Byte) :
    t.done ≠ some ⟨.invalidCommand c, none⟩ := by
  obtain hd | ⟨bytes, hd⟩ | ⟨e, he, hd⟩ := issueSend_done h
  · simp [hd]
  · simp [hd, sendStatus_ne_invalidCommand]
  · simp [hd, eq_payloadTooLarge_of_inCmdSet hc he, EncodeError.status]

/-! ### The frames of `clear` and `draw_pixel` -/

/-- The constant frame of `clear` (R154). -/
theorem buildFrame_clear :
    buildFrame Config.cmdClear [] = [0xA5, 0x00, 0x09, 0x2E, 0xCC, 0x33, 0xC3, 0x3C, 0x82] := by decide

/-- The frame of two 16-bit fields: LEN is 0x000D, and 0xA5 xor 0x0D is 0xA8 (R76, R157). -/
theorem buildFrame_twoFields (cmd : Byte) (a b : Nat) :
    buildFrame cmd (be16 a ++ be16 b) =
      [0xA5, 0x00, 0x0D, cmd, hi8 a, lo8 a, hi8 b, lo8 b, 0xCC, 0x33, 0xC3, 0x3C,
       0xA8 ^^^ cmd ^^^ hi8 a ^^^ lo8 a ^^^ hi8 b ^^^ lo8 b] := by
  have hlen : (be16 a ++ be16 b).length + 9 = 13 := rfl
  have hfixed : (0xA5 ^^^ hi8 13 ^^^ lo8 13 : Byte) = 0xA8 := rfl
  have hxor : xorFold (be16 a ++ be16 b) = hi8 a ^^^ lo8 a ^^^ hi8 b ^^^ lo8 b := by
    simp [xorFold, be16]
  rw [buildFrame_eq_frameWords, frameWords, hlen, hfixed, hxor]
  simp only [← BitVec.xor_assoc]
  rfl

/-! ### The typed operations -/

/-- Settles O29: both sides are the SEND issued for the pair. -/
theorem typedIsSend : Obligations.TypedIsSend :=
  fun _ cmd pl _ hfit hi =>
    (exec_eq_issueSend hfit hi).trans (exec_eq_issueSend (i := .send cmd (some pl)) trivial rfl).symm

/-- Settles O30: the command is in CMD_SET, so the check of R91 cannot fail. -/
theorem typedNeverInvalidCommand : Obligations.TypedNeverInvalidCommand := by
  intro i cmd pl ht hi
  have hc := inCmdSet_of_typed ht hi
  exact ⟨hc, fun s t c h => issueSend_done_ne_invalidCommand hc (issueSend_of_exec hi h) c⟩

/-- Settles O23: the SEND of 0x2E with no payload is accepted for every CMD_SET and writes the constant frame. -/
theorem clearResult : Obligations.ClearResult := by
  intro s h
  have hacc : Accepted Config.cmdClear [] := ⟨inCmdSet_cmdClear, by decide⟩
  rw [exec_ready (i := .clear) trivial rfl h, sendPost_of_accepted hacc, buildFrame_clear]
  rfl

/-- Settles O24: both operations hand SEND their command and their open payload. -/
theorem updateSleepResult : Obligations.UpdateSleepResult :=
  fun _ h => ⟨exec_ready (i := .update) trivial rfl h, exec_ready (i := .sleep) trivial rfl h⟩

/-- Settles O25: in range, the SEND of the two fields is accepted for every choice of CMD_DRAW_PIXEL; out of range, the
range check of R69 refuses. -/
theorem drawPixelResult : Obligations.DrawPixelResult := by
  intro a b s
  refine ⟨fun ha hb h => ?_, fun hwide => ?_⟩
  · have hacc : Accepted Config.cmdDrawPixel (be16 a ++ be16 b) :=
      ⟨inCmdSet_of_typed (i := .drawPixel a b) rfl rfl, show 4 ≤ 503 by decide⟩
    rw [exec_ready (i := .drawPixel a b) ⟨ha, hb⟩ rfl h, sendPost_of_accepted hacc, buildFrame_twoFields]
    rfl
  · obtain ha | hb := hwide
    · exact ifArgsFit_refused ⟨a, by simp, ha⟩
    · exact ifArgsFit_refused ⟨b, by simp, hb⟩

/-- Settles O26: each of the six hands SEND its command and its arguments in order. -/
theorem drawingResult : Obligations.DrawingResult :=
  fun args _ hargs h =>
    ⟨exec_ready (i := .drawLine args) hargs rfl h, exec_ready (i := .fillRect args) hargs rfl h,
      exec_ready (i := .drawCircle args) hargs rfl h, exec_ready (i := .fillCircle args) hargs rfl h,
      exec_ready (i := .drawTriangle args) hargs rfl h, exec_ready (i := .fillTriangle args) hargs rfl h⟩

/-- Settles O28: each of the four hands SEND its command and what its open builder makes of the arguments. -/
theorem settersResult : Obligations.SettersResult :=
  fun args _ hargs h =>
    ⟨exec_ready (i := .setColor args) hargs rfl h, exec_ready (i := .setMemoryMode args) hargs rfl h,
      exec_ready (i := .setRotation args) hargs rfl h, exec_ready (i := .setFont args) hargs rfl h⟩

end Sys2Proof.Safety
end

section
/-! ## How each instruction completes, and what an error leaves behind -/

namespace Sys2Proof.Safety
open Sys2Proof Sys2Proof.Machine
variable {i : Instr} {cmd : Byte} {pl : List Byte} {payload : Option (List Byte)} {l : Line} {s t : State}

/-! ### The completion of ENCODE and of a pulse train -/

/-- ENCODE completes with 00, 01 or 10 (R184). -/
theorem encodeCompletion_code_ne (cmd : Byte) (pl : List Byte) : (encodeCompletion cmd pl).status.code ≠ 0b11 := by
  obtain ⟨-, hc⟩ | ⟨-, hc⟩ | ⟨-, hc⟩ := encodeCompletion_cases cmd pl <;> simp [hc, Status.code]

/-- What stands at the completion output once an ENCODE is accepted, in every realisation: nothing yet, or the completion
that the operands alone determine (R90, R98). -/
theorem execEncode_done (h : execEncode cmd payload s = .next t) :
    t.done = none ∨ t.done = some (encodeCompletion cmd (payloadOf payload)) := by
  obtain ⟨-, -, ⟨-, rfl⟩ | ⟨-, rfl⟩⟩ := execEncode_next h
  · exact .inr rfl
  · obtain ⟨-, ht⟩ | ⟨e, he, ht⟩ := s.portStart_cases .caller cmd (payloadOf payload)
    · exact .inl (by rw [ht, State.sealWhole_done])
    · exact .inr (by rw [ht, encodeCompletion, he]; rfl)

/-- What stands there once a pulse train is accepted: nothing yet, or OK (R131). -/
theorem issuePulse_done (h : issuePulse l s = .next t) : t.done = none ∨ t.done = some ⟨.ok, none⟩ := by
  obtain ⟨-, -, -, ⟨-, rfl⟩ | ⟨-, rfl⟩⟩ := issuePulse_next h
  · exact .inr (s.pulseWhole_done l)
  · exact .inl rfl

/-- A pulse train that completes at once reports 00 (R184). -/
theorem issuePulse_code {c : Completion} (h : issuePulse l s = .next t) (hd : t.done = some c) : c.status.code = 0b00 := by
  obtain hn | hok := issuePulse_done h
  · cases hn.symm.trans hd
  · cases hok.symm.trans hd
    rfl

/-- Settles O52: a pulse train can only end in OK, and an ENCODE only as the encoder's answer says. -/
theorem statusCodes : Obligations.StatusCodes := by
  refine ⟨⟨rfl, fun _ => rfl, fun _ => rfl, fun _ => rfl⟩, fun i s t c h hd => ⟨?_, ?_⟩⟩
  · rintro (rfl | rfl)
    · exact issuePulse_code (l := .reset) h hd
    · exact issuePulse_code (l := .wake) h hd
  · rintro cmd payload rfl
    obtain hn | hc := execEncode_done (cmd := cmd) (payload := payload) h
    · cases hn.symm.trans hd
    · cases hc.symm.trans hd
      exact encodeCompletion_code_ne cmd _

/-! ### The state that a completion leaves -/

@[simp] theorem ended_done (s : State) (status : Status) (frame : Option (List Byte)) :
    (ended s status frame).done = some ⟨status, frame⟩ := rfl

/-- The write of a frame completes OK, or with the transport's answer as the error (R112). -/
theorem writeFrame_cases (s : State) (bytes : List Byte) :
    s.writeFrame bytes = ended (s.txWrite bytes) .ok none ∨
    s.writeFrame bytes = ended (s.txWrite bytes) (.transportError s.nextAnswer) none := by
  by_cases hw : s.nextAnswer = .written bytes.length
  · exact .inl (by rw [State.writeFrame, sendStatus, if_pos hw]; rfl)
  · exact .inr (by rw [State.writeFrame, sendStatus, if_neg hw]; rfl)

/-- A SEND run whole ends in OK, in an input error that leaves only its completion, or in a transport error after its one
write (R111 to R113, R187). -/
theorem sendWhole_ends (s : State) (cmd : Byte) (pl : List Byte) :
    (s.sendWhole cmd pl).done = some ⟨.ok, none⟩ ∨
    (∃ e : EncodeError, s.sendWhole cmd pl = ended s e.status none) ∨
    ∃ bytes, s.sendWhole cmd pl = ended (s.txWrite bytes) (.transportError s.nextAnswer) none := by
  obtain ⟨-, ht⟩ | ⟨e, -, ht⟩ := s.sendWhole_cases cmd pl
  · obtain hw | hw := writeFrame_cases s (buildFrame cmd pl)
    · exact .inl (by rw [ht, hw, ended_done])
    · exact .inr (.inr ⟨_, ht.trans hw⟩)
  · exact .inr (.inl ⟨e, ht⟩)

/-- An ENCODE run whole ends in OK, or in an input error that leaves only its completion (R90 to R92, R187). -/
theorem encodeWhole_ends (s : State) (cmd : Byte) (pl : List Byte) :
    (∃ bytes, (s.encodeWhole cmd pl).done = some ⟨.ok, some bytes⟩) ∨
    ∃ e : EncodeError, s.encodeWhole cmd pl = ended s e.status none := by
  rw [encodeWhole_eq_encodePost]
  by_cases hacc : Accepted cmd pl
  · exact .inl ⟨_, by rw [encodePost_of_accepted hacc]; rfl⟩
  · obtain ⟨e, he⟩ := encodeFrame_of_not_accepted hacc
    exact .inr ⟨e, encodePost_of_error he⟩

/-- From a ready state every instruction ends in OK, in an input error that leaves only its completion, or in a transport
error after one write (R187). -/
theorem exec_ready_ends (hs : Ready s) (h : exec i s = .next t) :
    (∃ frame, t.done = some ⟨.ok, frame⟩) ∨ (∃ e : EncodeError, t = ended s e.status none) ∨
    ∃ bytes, t = ended (s.txWrite bytes) (.transportError s.nextAnswer) none := by
  obtain ⟨-, -, hr⟩ := hs
  obtain ⟨-, -, ⟨cmd, _, -, ⟨-, rfl⟩ | ⟨hr', -⟩⟩ | ⟨cmd, pl, -, ⟨-, rfl⟩ | ⟨hr', -⟩ | ⟨hr', -⟩⟩ |
    ⟨l, -, -, ⟨-, rfl⟩ | ⟨hr', -⟩⟩⟩ := exec_next h
  · exact (encodeWhole_ends s cmd _).imp (fun ⟨_, hd⟩ => ⟨_, hd⟩) .inl
  · simp [hr] at hr'
  · exact (sendWhole_ends s cmd pl).imp_left fun hd => ⟨_, hd⟩
  · simp [hr] at hr'
  · simp [hr] at hr'
  · exact .inl ⟨_, s.pulseWhole_done l⟩
  · exact absurd hr hr'

/-- Settles O34, by the three ways in which an instruction ends. -/
theorem errorsArePrecise : Obligations.ErrorsArePrecise := by
  intro i s t hs h
  obtain ⟨frame, hd⟩ | ⟨e, rfl⟩ | ⟨bytes, rfl⟩ := exec_ready_ends hs h
  · simp [hd]
  · cases e with
    | invalidCommand _ =>
      refine ⟨?_, nofun, nofun⟩
      rintro c fr ⟨⟩
      rfl
    | payloadTooLarge _ =>
      refine ⟨nofun, ?_, nofun⟩
      rintro n fr ⟨⟩
      rfl
  · refine ⟨nofun, nofun, ?_⟩
    rintro a fr ⟨⟩
    exact ⟨bytes, rfl⟩

end Sys2Proof.Safety
end

section
/-! ## The time a pulse train takes at least -/

namespace Sys2Proof.Safety
open Sys2Proof Sys2Proof.Machine
variable {s t u : State} {l : Line}

/-- The sum of the documented minima of a line's three holds (R8, R220). -/
def leastTrain (l : Line) : Nat := minT1 l + minT2 l + minT3 l

theorem leastTrain_reset : leastTrain .reset = 2002000 := rfl
theorem leastTrain_wake : leastTrain .wake = 12000 := rfl

/-- A row takes at least the hold it asks for, slept or counted (R33, R133). -/
theorem le_rowCalls_now (v : Level) (d : Nat) (s : State) : s.now + d ≤ (rowCalls v d s).now := by
  cases hc : s.realisation.counted with
  | true =>
    have hheld := le_heldFor d
    simp only [rowCalls_counted hc, State.note_now, State.elapse_now, State.gpioAtEdge_now]
    omega
  | false =>
    simp only [rowCalls_slept hc, State.sleep_now, State.gpioSet_now]
    omega

/-- With legal holds the three rows take at least the three minima (R128, R220). -/
theorem le_trainCalls_now (hl : s.holds.legal s.ln = true) : s.now + leastTrain s.ln ≤ (trainCalls s).now := by
  obtain ⟨h1, h2, h3⟩ := Holds.legal_iff.mp hl
  have hrow1 := le_rowCalls_now .low (s.holds.t1 s.ln) s
  have hrow2 := le_rowCalls_now .high (s.holds.t2 s.ln) (rowCalls .low (s.holds.t1 s.ln) s)
  have hrow3 : _ ≤ (trainCalls s).now := le_rowCalls_now ..
  rw [leastTrain]
  omega

/-- The whole pulse train makes the calls of the three slept rows, so it takes as long (R125, R126). -/
theorem le_pulseWhole_now (hc : s.realisation.counted = false) (hl : s.holds.legal l = true) :
    s.now + leastTrain l ≤ (s.pulseWhole l).now := by
  rw [← trainCalls_slept hc]
  exact le_trainCalls_now (s := s.latch l) hl

theorem issuePulse_takes_whole (hr : s.realisation = .transaction) (h : issuePulse l s = .next t) :
    s.now + leastTrain l ≤ t.now := by
  obtain ⟨-, -, hl, ⟨-, rfl⟩ | ⟨hr', -⟩⟩ := issuePulse_next h
  · exact le_pulseWhole_now (by rw [hr]; rfl) hl
  · exact absurd hr hr'

theorem issuePulse_takes_stepwise (hs : Idle s) (hr : s.realisation = .stepwise) (hrun : runSteps 6 t = .next u)
    (h : issuePulse l s = .next t) : s.now + leastTrain l ≤ u.now := by
  obtain ⟨-, -, hl, ⟨hr', -⟩ | ⟨-, rfl⟩⟩ := issuePulse_next h
  · simp [hr] at hr'
  · cases (runSteps_stepwise hs hr hl).symm.trans hrun
    exact le_pulseWhole_now (by rw [hr]; rfl) hl

theorem issuePulse_takes_counted (hs : Idle s) (hc : s.realisation.counted = true) (hl : s.holds.legal l = true) :
    ∃ t u, issuePulse l s = .next t ∧ runSteps (clockedSteps l s.holds) t = .next u ∧ s.now + leastTrain l ≤ u.now := by
  have hcut : s.realisation ≠ .transaction := by
    intro hr
    simp [hr, Realisation.counted] at hc
  exact ⟨_, _, issuePulse_start hs hcut hl, runSteps_clocked hs hc hl, le_trainCalls_now (s := s.latch l) hl⟩

/-- Settles O38: however the pulse train runs, each of its rows takes at least its hold. -/
theorem pulseTakesAtLeast : Obligations.PulseTakesAtLeast := by
  unfold Obligations.PulseTakesAtLeast
  rw [← leastTrain_reset, ← leastTrain_wake]
  exact ⟨fun _ _ hr => ⟨issuePulse_takes_whole hr, issuePulse_takes_whole hr⟩,
    fun _ _ _ hs hr hrun => ⟨issuePulse_takes_stepwise hs hr hrun, issuePulse_takes_stepwise hs hr hrun⟩,
    fun _ hs hc => ⟨issuePulse_takes_counted hs hc, issuePulse_takes_counted hs hc⟩⟩

end Sys2Proof.Safety
end
